-- ==== Sys2Proof/Word.lean ====
section
/-! DEFINITION. The machine's units of data: the byte of memory and BUF, the 64-bit register, the 32-bit register or
command word, and the 128-byte block. -/

namespace Sys2Proof

/-- A byte of host data memory or of BUF (R27, R42). -/
abbrev Byte := BitVec 8

/-- A 64-bit register, a host data address or a block count (R9, R22 to R25, R69). -/
abbrev Word := BitVec 64

/-- A 32-bit register value or command word (R20, R62). -/
abbrev Word32 := BitVec 32

/-- A block as it is handed to the Compressor: the list of its 128 bytes, the earliest first (R47, R103). -/
abbrev Block := List Byte

/-- The block size in bytes (R8: BLOCK_BYTES). -/
abbrev blockBytes : Nat := 128

/-- The Compressor's natural word size in bytes (R8: WORD_BYTES). -/
abbrev wordBytes : Nat := 8

/-- The size of the host data address space, `2^ADDR_W` (R9, R42). -/
abbrev addressLimit : Nat := 2 ^ 64

end Sys2Proof
end

