-- ==== Sys2Proof/Syntax.lean ====
section
/-! DEFINITION. The two commands of the opcode table, and the host access as the bus carries it. -/

namespace Sys2Proof

/-- The HBBM's commands, one constructor per row of spec/opcode_table.json (R63).
A command word has no operand fields: UPDATE reads SRC_ADDR and LEN at acceptance, CLEAR has no operand (R62, R65). -/
inductive Instr where
  /-- UPDATE, OP = 0x01: absorb LEN bytes at SRC_ADDR into the context (R83). -/
  | update
  /-- CLEAR, OP = 0x02: set the context to the freshly initialised state (R112). -/
  | clear
  deriving DecidableEq, Repr

/-- R66: one host access `(dir, offset, width, data)`.
The direction is WR exactly when there is data; the access uses the data's low `width` bits. -/
structure HostAccess where
  /-- The offset relative to BASE. -/
  offset : BitVec 8
  /-- The width in bits. -/
  width : Nat
  /-- `none` for RD, the data for WR. -/
  data : Option Word
  deriving DecidableEq, Repr

end Sys2Proof
end

