-- ==== Sys2Proof/Decode.lean ====
section
/-! DEFINITION. The command word: its decoder (R64), its encoder (R62, R63) and its disassembly (R72). -/

namespace Sys2Proof

/-- Why a command word is illegal (R64, R113). -/
inductive DecodeError where
  /-- RSV, bits 31:8, is not 0. -/
  | reservedBits
  /-- OP is neither 0x01 nor 0x02. -/
  | illegalOpcode
  deriving DecidableEq, Repr

/-- The decoder's answer: a command, or why the word is illegal. -/
inductive Decoded where
  | command (i : Instr)
  | illegal (e : DecodeError)
  deriving DecidableEq, Repr

/-- R62: the field OP, bits 7:0. -/
def opField (w : Word32) : BitVec 8 := w.extractLsb' 0 8

/-- R62: the field RSV, bits 31:8. -/
def rsvField (w : Word32) : BitVec 24 := w.extractLsb' 8 24

/-- R64: decoding of a command word, total on every 32-bit word. -/
def decode (w : Word32) : Decoded :=
  if rsvField w ≠ 0 then .illegal .reservedBits
  else if opField w = 0x01#8 then .command .update
  else if opField w = 0x02#8 then .command .clear
  else .illegal .illegalOpcode

/-- R63: the opcode of a command. -/
def opcode : Instr → BitVec 8
  | .update => 0x01#8
  | .clear => 0x02#8

/-- R62: the command word, RSV = 0 above OP. -/
def encode (i : Instr) : Word32 := 0#24 ++ opcode i

/-- The host's question: the command the decoder reads from a word of `nbits` bits whose value is `w`.
Every command word is exactly 32 bits, so the word's missing upper bits are 0 (R67). -/
def decodeTableWord (nbits w : Nat) : Option Instr :=
  if nbits ≤ 32 then
    match decode (BitVec.ofNat 32 (w % 2 ^ nbits)) with
    | .command i => some i
    | .illegal _ => none
  else none

/-- A hexadecimal digit. R72 does not give the letter case: DESIGN CHOICE upper case, as the spec writes its own
numbers (log 28). -/
def hexDigit (d : Nat) : Char :=
  if d < 10 then Char.ofNat (48 + d) else Char.ofNat (55 + d)

/-- The low `n` hexadecimal digits of `v`, the highest first. -/
def hexDigits : Nat → Nat → List Char
  | 0, _ => []
  | n + 1, v => hexDigits n (v / 16) ++ [hexDigit (v % 16)]

/-- R70: the mnemonic that stands for a command's word. -/
def mnemonic : Instr → String
  | .update => "UPDATE"
  | .clear => "CLEAR"

/-- R72: how a command word is printed in a listing (the letter case of the digits: log 28). -/
def disassemble (w : Word32) : String :=
  match decode w with
  | .command i => mnemonic i
  | .illegal _ => ".illegal 0x" ++ String.ofList (hexDigits 8 w.toNat)

end Sys2Proof
end

