-- ==== Sys2Proof/Config.lean ====
section
/-! DEFINITION. What an implementation fixes (the build parameters of R10) and the free values: opaque constants for
everything the spec leaves unspecified. No proof can see a free value, so a claim about one holds whatever it is. -/

namespace Sys2Proof

/-- R10: the dispatch policy, fixed at build time.
`bulk` is the dispatch of R92 with its direct path, `copyAll` always copies through BUF. -/
inductive Policy where
  | bulk
  | copyAll
  deriving DecidableEq, Repr, Inhabited

/-- R10, R157: what is fixed when the HBBM is built, the two OPEN parameters. -/
structure Build where
  /-- CAN_UNALIGNED: the Compressor can read blocks that are not 8-byte aligned. -/
  canUnaligned : Bool
  /-- POLICY. -/
  policy : Policy
  deriving DecidableEq, Repr, Inhabited

/-- R7: the four agents of the model. -/
inductive Agent where
  | host
  | engine
  | compressor
  | reset
  deriving DecidableEq, Repr, Inhabited

/-! ### Free values

Each takes the step counter `State.draws` as its first argument, so that every step draws afresh (log 9). -/

/-- Which agent moves next when the schedule in State is empty (R57, R138, R167; log 2). -/
opaque Config.freeAgent : Nat → Agent

/-- What a read of CNT_LO, CNT_HI, BUFLEN or the BUF window returns while BUSY = 1 (R114, U11; log 10). -/
opaque Config.freeRead : Nat → Word

/-- CNT_LO after ERR_BUS (R135, U12; log 11). -/
opaque Config.freeCntLo : Nat → Word

/-- CNT_HI after ERR_BUS (R135, U12; log 11). -/
opaque Config.freeCntHi : Nat → Word

/-- BUFLEN after ERR_BUS (R135, U12; log 11). -/
opaque Config.freeBufLen : Nat → BitVec 7

/-- Byte k of BUF after ERR_BUS (R135, U12; log 11). -/
opaque Config.freeErrBuf : Nat → Nat → Byte

/-- Byte k of BUF after a Reset step (R152, U9; log 7). -/
opaque Config.freeResetBuf : Nat → Nat → Byte

/-- CUR_ADDR after a Reset step (R152, U20; log 7). -/
opaque Config.freeCurAddr : Nat → BitVec 65

/-- CUR_LEN after a Reset step (R152, U20; log 7). -/
opaque Config.freeCurLen : Nat → Word

/-- What the BUF read port gives for byte k outside a BUF request (R46, U13; log 17). -/
opaque Config.freePort : Nat → Nat → Byte

/-- Which of the old and new values a read of a raced address returns (R160, U14; log 12). -/
opaque Config.freePick : Nat → Nat → Nat

end Sys2Proof
end

