-- ==== Sys2Proof/Machine/State.lean ====
section
/-! DEFINITION. The state of the system the spec describes: the HBBM's registers and Engine, the host data memory,
what the Host has still to do, and which agent moves next. All of it is plain data. -/

namespace Sys2Proof.Machine

/-! ### The Compressor request -/

/-- R69: where the blocks of a request are. -/
inductive Src where
  | buf
  | mem
  deriving DecidableEq, Repr

/-- R69: a Compressor request `(src, addr, n)`. -/
structure Request where
  src : Src
  /-- The host data address of a `mem` request, 0 for a `buf` request. -/
  addr : Word
  /-- The number of blocks. -/
  n : Word
  deriving DecidableEq, Repr

/-! ### The Engine -/

/-- R33: the phases that issue a request, to which WAIT_CMP goes back. -/
inductive Resume where
  | drain
  | bulk
  deriving DecidableEq, Repr

/-- R33, R35: the Engine's phase. WAIT_CMP holds the outstanding request and the phase to resume, so that there is
at most one request and exactly one while the Engine waits. -/
inductive Phase where
  | idle
  | count
  | drain
  | bulk
  | stash
  | waitCmp (r : Request) (resume : Resume)
  deriving DecidableEq, Repr

/-- R28, R127: the four causes of an error. -/
inductive Err where
  | cmd
  | busy
  | range
  | bus
  deriving DecidableEq, Repr

/-- R28: one flag per cause. -/
structure Errors where
  cmd : Bool
  busy : Bool
  range : Bool
  bus : Bool
  deriving DecidableEq, Repr

/-- No error. -/
def Errors.none : Errors := ⟨false, false, false, false⟩

/-! ### The Host -/

/-- What the bus answered to the Host's last register access (R52, R132). -/
inductive BusResp where
  /-- A read of `width` bits returned `value` (zero-extended). -/
  | data (width : Nat) (value : Word)
  /-- A write was taken by the HBBM, which stored it, ignored it or dropped it. -/
  | written
  /-- The bus error response to an unsupported access. -/
  | busError
  deriving DecidableEq, Repr

/-- R70: a statement of a Host program. -/
inductive HostOp where
  /-- RD or WR: one register access, by its offset from BASE (R66). -/
  | access (a : HostAccess)
  /-- An access at a host bus address, which reaches the HBBM when the address lies in its window (R43). -/
  | bus (addr : Word) (width : Nat) (data : Option Word)
  /-- POLL: repeat a 32-bit read of the register at `offset` until its field `hi:lo` equals `value`. -/
  | poll (offset : BitVec 8) (hi lo value : Nat)
  /-- MEM: the Host writes bytes of host data memory. -/
  | memWrite (addr : Nat) (bytes : List Byte)
  deriving DecidableEq, Repr

/-! ### Memory -/

/-- Host data memory: the bytes that are there, by strictly rising address (R42; log 5). -/
abbrev Memory := List Host.Cell

/-- R45: what a read of several bytes returns. -/
inductive ReadResult where
  | bytes (bs : List Byte)
  /-- The read of the byte at `addr` was the first to fail. -/
  | busError (addr : Nat)
  deriving DecidableEq, Repr

/-! ### Register accesses -/

/-- R49: which bits of a 64-bit register an access reaches. -/
inductive Part where
  /-- Bits 31:0, a 32-bit access at offset + 0. -/
  | lo
  /-- Bits 63:32, a 32-bit access at offset + 4. -/
  | hi
  /-- All 64 bits. -/
  | whole
  deriving DecidableEq, Repr

/-- What a supported host access reaches (R20, R52). -/
inductive Target where
  | caps
  | status
  | cmd
  | srcAddr (p : Part)
  | len (p : Part)
  | cntLo (p : Part)
  | cntHi (p : Part)
  | bufLen
  | faultAddr (p : Part)
  /-- `n` bytes of the BUF window from BUF[k]. -/
  | window (k n : Nat)
  deriving DecidableEq, Repr

/-! ### The state -/

/-- The whole state (INVENTORY.md, "State", names the rule of each field). -/
structure State where
  /-- R10, R40: the build parameters; no step writes them. -/
  build : Build
  /-- R43, R40: BASE div 256, so that BASE is aligned to 256 bytes. The platform's parameter: no register holds it, no
  step writes it (log 22). -/
  base : BitVec 56
  /-- R22: SRC_ADDR. -/
  srcAddr : Word
  /-- R23: LEN. -/
  len : Word
  /-- R24: CNT_LO. -/
  cntLo : Word
  /-- R25: CNT_HI. -/
  cntHi : Word
  /-- R26: the field BUFLEN. -/
  bufLen : BitVec 7
  /-- R27: BUF. -/
  buf : Vector Byte 128
  /-- R28: the sticky error bits of STATUS. -/
  errs : Errors
  /-- R150: the error bits that a Host write to STATUS has cleared since reset. -/
  cleared : Errors
  /-- R31: FAULT_ADDR. -/
  faultAddr : Word
  /-- R33, R35: the phase, with the outstanding request. -/
  phase : Phase
  /-- R34: CUR_ADDR. -/
  curAddr : BitVec 65
  /-- R34: CUR_LEN. -/
  curLen : Word
  /-- R99: the requests issued since reset, in order. -/
  history : List Request
  /-- R104: the blocks of the acknowledged requests since reset, in order. -/
  absorbed : List Block
  /-- R42: host data memory. -/
  mem : Memory
  /-- R160: old values of bytes the Host wrote while the present UPDATE runs. -/
  raced : List Host.Cell
  /-- R57, R70: what the Host has still to do, in its order. -/
  hostProg : List HostOp
  /-- R18, R132: the bus's answer to the Host's last access. -/
  resp : Option BusResp
  /-- R57: which agents move next; when it is empty, the agent is a free value. -/
  sched : List Agent
  /-- The model's own counter of steps, the argument of the free values. -/
  draws : Nat
  deriving DecidableEq, Repr

/-- R152: the machine right after reset. The spec gives every value but these, which are DESIGN CHOICES: the build
parameters (log 4), BASE (log 22), BUF's bytes (log 6), the cursor (log 8), host data memory, in which no byte can be
read yet (log 5), the model's own fields (logs 2, 3, 9, 18). -/
def State.reset : State where
  build := ⟨false, .bulk⟩
  base := 0
  srcAddr := 0
  len := 0
  cntLo := 0
  cntHi := 0
  bufLen := 0
  buf := Vector.replicate 128 0
  errs := Errors.none
  cleared := Errors.none
  faultAddr := 0
  phase := .idle
  curAddr := 0
  curLen := 0
  history := []
  absorbed := []
  mem := []
  raced := []
  hostProg := []
  resp := none
  sched := []
  draws := 0

/-- Why the machine stops. -/
inductive Fault where
  /-- Raised by the Host's own memory write (`Sys2Proof.Machine.hostMemWrite`) when it would run past address
  2^64 - 1: there is no such byte of host data memory (R42; log 20). Safe: the run stops. -/
  | noSuchAddress
  deriving DecidableEq, Repr

/-- Why an instruction has no meaning. -/
inductive Refusal where
  /-- Raised by `exec` for an instruction without a meaning; no arm raises it. Safe: the run stops. -/
  | notModelled (mnemonic : String)
  deriving DecidableEq, Repr

/-- The outcome of a step of this machine. -/
abbrev Result := Host.Outcome State Fault Refusal

end Sys2Proof.Machine
end

