-- ==== Sys2Proof/Machine/Flags.lean ====
section
/-! DEFINITION. The flags: BUSY, the four sticky error bits, the STATUS word made of them, their write-one-to-clear,
and the constant word CAPS (R28, R29, R39, R121, R122, R127). -/

namespace Sys2Proof.Machine

/-- R33: STATUS.BUSY is 1 exactly when the phase is not IDLE. -/
def State.busy (s : State) : Bool :=
  match s.phase with
  | .idle => false
  | _ => true

/-- R127: the cause code of an error is its bit position in STATUS. -/
def Err.code : Err → Nat
  | .cmd => 1
  | .busy => 2
  | .range => 3
  | .bus => 4

/-- One error bit. -/
def Errors.get (e : Errors) : Err → Bool
  | .cmd => e.cmd
  | .busy => e.busy
  | .range => e.range
  | .bus => e.bus

/-- R133: OR one error bit into the bits already set. -/
def Errors.set (e : Errors) : Err → Errors
  | .cmd => { e with cmd := true }
  | .busy => { e with busy := true }
  | .range => { e with range := true }
  | .bus => { e with bus := true }

/-- R121: clear each error bit whose position holds 1 in `v`; the other bits of `v` are ignored. -/
def Errors.clearBits (e : Errors) (v : Word32) : Errors where
  cmd := e.cmd && !v.getLsbD 1
  busy := e.busy && !v.getLsbD 2
  range := e.range && !v.getLsbD 3
  bus := e.bus && !v.getLsbD 4

/-- R150: what a write of `v` to STATUS clears, added to what was recorded before. -/
def Errors.recordCleared (record e : Errors) (v : Word32) : Errors where
  cmd := record.cmd || (e.cmd && v.getLsbD 1)
  busy := record.busy || (e.busy && v.getLsbD 2)
  range := record.range || (e.range && v.getLsbD 3)
  bus := record.bus || (e.bus && v.getLsbD 4)

/-- R28, R122: STATUS as a read returns it. -/
def State.statusWord (s : State) : Word32 :=
  0#27 ++ BitVec.ofBool s.errs.bus ++ BitVec.ofBool s.errs.range ++ BitVec.ofBool s.errs.busy
    ++ BitVec.ofBool s.errs.cmd ++ BitVec.ofBool s.busy

/-- R121: a Host write of `v` to STATUS. -/
def State.writeStatus (s : State) (v : Word32) : State :=
  { s with
    errs := s.errs.clearBits v
    cleared := s.cleared.recordCleared s.errs v }

/-- R29: POLICY as CAPS shows it. -/
def policyBit : Policy → Bool
  | .bulk => false
  | .copyAll => true

/-- R29: CAPS, a constant of the build. -/
def capsWord (b : Build) : Word32 :=
  0#8 ++ 64#8 ++ 0#2 ++ BitVec.ofBool (policyBit b.policy) ++ BitVec.ofBool b.canUnaligned ++ 3#4 ++ 7#8

end Sys2Proof.Machine
end

