-- ==== Sys2Proof/Machine/Operands.lean ====
section
/-! DEFINITION. Operand forms: the parts of a 64-bit register an access reaches (R49), byte lanes (R48), and the
operands of UPDATE with their range check (R65, R84, R86). -/

namespace Sys2Proof.Machine

/-- R49: the value an access reads from a 64-bit register, zero-extended. -/
def Part.select (p : Part) (v : Word) : Word :=
  match p with
  | .lo => (v.extractLsb' 0 32).setWidth 64
  | .hi => (v.extractLsb' 32 32).setWidth 64
  | .whole => v

/-- R49, R116: a 64-bit register after a write of `v`; a 32-bit write changes only the half it reaches. -/
def Part.merge (p : Part) (old v : Word) : Word :=
  match p with
  | .lo => old.extractLsb' 32 32 ++ v.extractLsb' 0 32
  | .hi => v.extractLsb' 0 32 ++ old.extractLsb' 0 32
  | .whole => v

/-- R48: the value of a list of bytes on little-endian lanes, the first byte in bits 7:0. -/
def lanesValue : List Byte → Nat
  | [] => 0
  | b :: bs => b.toNat + 256 * lanesValue bs

/-- R48: the bytes of the low `n` lanes of a value. -/
def lanesBytes : Nat → Nat → List Byte
  | 0, _ => []
  | n + 1, v => BitVec.ofNat 8 v :: lanesBytes n (v / 256)

/-- R86: the chunk of `n` bytes at `a` lies in the address space; computed without wrap. -/
def inRange (a n : Word) : Bool :=
  decide (a.toNat + n.toNat ≤ addressLimit)

end Sys2Proof.Machine
end

