-- ==== Sys2Proof/Machine/Ops.lean ====
section
/-! DEFINITION. The named operations over host data memory, BUF, the cursor and the phase, raising an error, and the
reset of the HBBM. -/

namespace Sys2Proof.Machine

/-! ### Host data memory -/

/-- The form every memory has: addresses strictly rising and inside the address space (R42). -/
abbrev Memory.wf (m : Memory) : Prop :=
  (m.map Prod.fst).Pairwise (· < ·) ∧ ∀ c ∈ m, c.1 < addressLimit

/-- R42, R45: the byte at an address; `none` is a bus error (log 5: an unlisted address answers a bus error). -/
def Memory.read : Memory → Nat → Option Byte
  | [], _ => none
  | (x, b) :: m, a => if x = a then some b else Memory.read m a

/-- A Host write of one byte. -/
def Memory.write : Memory → Nat → Byte → Memory
  | [], a, b => [(a, b)]
  | (x, c) :: m, a, b =>
    if a < x then (a, b) :: (x, c) :: m
    else if a = x then (a, b) :: m
    else (x, c) :: Memory.write m a b

/-- R14 (`MemWrite`): a Host write of bytes at rising addresses. -/
def Memory.writeBytes (m : Memory) (a : Nat) : List Byte → Memory
  | [] => m
  | b :: bs => Memory.writeBytes (Memory.write m a b) (a + 1) bs

/-- The bytes that stand at `n` addresses from `a`, with their addresses. -/
def Memory.cellsAt (m : Memory) (a : Nat) : Nat → List Host.Cell
  | 0 => []
  | n + 1 =>
    match Memory.read m a with
    | some b => (a, b) :: Memory.cellsAt m (a + 1) n
    | none => Memory.cellsAt m (a + 1) n

/-- R160: the old values that a read of address `a` may still return while the UPDATE runs. -/
def oldValues (raced : List Host.Cell) (a : Nat) : List Byte :=
  (raced.filter fun c => c.1 = a).map Prod.snd

/-- R45, R160: a read of one byte of host data memory by the Engine or the Compressor. A byte written while the UPDATE
runs reads as its old or its new value, by a free choice (log 12). -/
def State.busRead (s : State) (a : Nat) : Option Byte :=
  match (oldValues s.raced a)[Config.freePick s.draws a % ((oldValues s.raced a).length + 1)]? with
  | some old => some old
  | none => Memory.read s.mem a

/-- R45: `MemRead(addr, n)`, ascending, stopping at the first byte that gets a bus error. -/
def State.memRead (s : State) (a : Nat) : Nat → ReadResult
  | 0 => .bytes []
  | n + 1 =>
    match s.busRead a with
    | none => .busError a
    | some b =>
      match State.memRead s (a + 1) n with
      | .bytes bs => .bytes (b :: bs)
      | .busError x => .busError x

/-! ### BUF -/

/-- R13: `BUF[off .. off + |bs|) <- bs`, byte after byte. -/
def bufWrite (buf : Vector Byte 128) (off : Nat) : List Byte → Vector Byte 128
  | [] => buf
  | b :: bs => bufWrite (if h : off < 128 then buf.set off b h else buf) (off + 1) bs

/-- R13: the byte sequence `BUF[off .. off + n)`. -/
def bufBytes (buf : Vector Byte 128) (off n : Nat) : List Byte :=
  (buf.toList.drop off).take n

/-- A buffer of free values: byte `k` is what the free value gives for it. -/
@[irreducible] def freeBuffer (f : Nat → Byte) : Vector Byte 128 := Vector.ofFn fun k : Fin 128 => f k.val

/-- R17: the valid bytes `BUF[0 .. BUFLEN)`. -/
def State.validBytes (s : State) : List Byte :=
  bufBytes s.buf 0 s.bufLen.toNat

/-! ### Errors -/

/-- R14, R133: raising an error sets its sticky bit and saves nothing else. -/
def State.raise (s : State) (e : Err) : State :=
  { s with errs := s.errs.set e }

/-- R97: `finish`; what the running UPDATE could still read as old values is forgotten with it (R160). -/
def State.finish (s : State) : State :=
  { s with phase := .idle, raced := [] }

/-- R135: after ERR_BUS the context holds unspecified values (log 11). -/
def State.loseContext (s : State) : State :=
  { s with
    cntLo := Config.freeCntLo s.draws
    cntHi := Config.freeCntHi s.draws
    bufLen := Config.freeBufLen s.draws
    buf := freeBuffer (Config.freeErrBuf s.draws) }

/-- R97, R131, R134: a failed read at address `x` raises ERR_BUS, records the address and ends the command. -/
def State.abort (s : State) (x : Nat) : State :=
  ({ (s.raise .bus).loseContext with faultAddr := BitVec.ofNat 64 x }).finish

/-! ### The cursor and the phase -/

/-- R34: consume `m` bytes. -/
def State.advance (s : State) (m : Nat) : State :=
  { s with
    curAddr := s.curAddr + BitVec.ofNat 65 m
    curLen := s.curLen - BitVec.ofNat 64 m }

/-- R87: start an UPDATE with the latched operands. -/
def State.start (s : State) (a n : Word) : State :=
  { s with phase := .count, curAddr := a.setWidth 65, curLen := n }

/-- R14, R99: `Compress`: issue a request, append it to the history, save the phase, wait. -/
def State.issue (s : State) (r : Request) (back : Resume) : State :=
  { s with phase := .waitCmp r back, history := s.history ++ [r] }

/-- R69: the encoding of a request's `src`. -/
def Src.code : Src → BitVec 1
  | .buf => 0
  | .mem => 1

/-- R69: the request for the one block in BUF. -/
def bufRequest : Request := ⟨.buf, 0, 1⟩

/-- R35: the outstanding request. -/
def State.outstanding (s : State) : Option Request :=
  match s.phase with
  | .waitCmp r _ => some r
  | _ => none

/-! ### The Host's side -/

/-- The bus's answer to the Host's access. -/
def State.respond (s : State) (r : BusResp) : State :=
  { s with resp := some r }

/-- What every step does before its agent acts: the schedule and the step counter move on. -/
def State.tick (s : State) (rest : List Agent) : State :=
  { s with sched := rest, draws := s.draws + 1 }

/-! ### Reset -/

/-- R151 to R153: a Reset step. Every HBBM register takes its reset value, BUF and the cursor unspecified ones (log 7),
the command and the request are discarded, the history and the stream start empty. Outside the HBBM nothing changes:
the build, BASE, the memory, the Host and its last answer. -/
def State.resetHbbm (s : State) : State :=
  { State.reset with
    build := s.build
    base := s.base
    buf := freeBuffer (Config.freeResetBuf s.draws)
    curAddr := Config.freeCurAddr s.draws
    curLen := Config.freeCurLen s.draws
    mem := s.mem
    hostProg := s.hostProg
    resp := s.resp
    sched := s.sched
    draws := s.draws }

end Sys2Proof.Machine
end

