-- ==== Sys2Proof/Machine/Clear.lean ====
section
/-! DEFINITION. CLEAR (42_control.md). -/

namespace Sys2Proof.Machine

/-- R112: the context becomes the freshly initialised one. -/
def State.clearContext (s : State) : State :=
  { s with cntLo := 0, cntHi := 0, bufLen := 0 }

/-- R112, R115: the CLEAR word is written to CMD. While BUSY it is dropped with ERR_BUSY. -/
def execClear (s : State) : Result :=
  if s.busy then .next (s.raise .busy)
  else .next s.clearContext

end Sys2Proof.Machine
end

