-- ==== Sys2Proof/Machine/Counter.lean ====
section
/-! DEFINITION. The 128-bit bit counter's step (40_counter.md). -/

namespace Sys2Proof.Machine

/-- R74: the new low word. -/
def counterLow (lo n : Word) : Word := lo + (n <<< 3)

/-- R75: the carry into the high word. -/
def counterCarry (lo n : Word) : Word := if counterLow lo n < lo then 1 else 0

/-- R76, R77: the new high word, with the carry and the fold of LEN's bits 63:61. -/
def counterHigh (lo hi n : Word) : Word := hi + counterCarry lo n + (n >>> 61)

/-- R73: the phase COUNT. CUR_LEN is still the latched LEN; the Engine goes on to DRAIN (R87). -/
def engineCount (s : State) : State :=
  { s with
    cntLo := counterLow s.cntLo s.curLen
    cntHi := counterHigh s.cntLo s.cntHi s.curLen
    phase := .drain }

end Sys2Proof.Machine
end

