-- ==== Sys2Proof/Machine/Update.lean ====
section
/-! DEFINITION. UPDATE: its acceptance (the meaning `exec` gives it), and the Engine's phases that carry it out
(41_update.md). -/

namespace Sys2Proof.Machine

/-- R83 to R87, R129, R137: the UPDATE word is written to CMD. While BUSY it is dropped; LEN = 0 is a no-op; a chunk
past the top of memory is ERR_RANGE; otherwise the operands are latched and the Engine starts. -/
def execUpdate (s : State) : Result :=
  if s.busy then .next (s.raise .busy)
  else if s.len = 0 then .next s
  else if inRange s.srcAddr s.len then .next (s.start s.srcAddr s.len)
  else .next (s.raise .range)

/-- R89, R90, R93, R96, R97: `BUF[off .. off+n) <- MemRead(CUR_ADDR, n)`, then `after`; a bus error aborts. -/
def State.copyIn (s : State) (off n : Nat) (after : State → State) : State :=
  match s.memRead s.curAddr.toNat n with
  | .bytes bs => after { s with buf := bufWrite s.buf off bs }
  | .busError x => s.abort x

/-- R89: the chunk ends inside the partial block. -/
def drainPartial (s : State) : State :=
  s.copyIn s.bufLen.toNat s.curLen.toNat fun t =>
    { t with bufLen := BitVec.ofNat 7 (s.bufLen.toNat + s.curLen.toNat) }.finish

/-- R90: the chunk fills the partial block, which is dispatched. -/
def drainFull (s : State) : State :=
  s.copyIn s.bufLen.toNat (128 - s.bufLen.toNat) fun t =>
    ({ t with bufLen := 0 }.advance (128 - s.bufLen.toNat)).issue bufRequest .drain

/-- R88: the phase DRAIN. -/
def engineDrain (s : State) : State :=
  if s.bufLen = 0 then { s with phase := .bulk }
  else if s.curLen.toNat < 128 - s.bufLen.toNat then drainPartial s
  else drainFull s

/-- R92: the copy path is taken. -/
def copyPath (b : Build) (curAddr : Nat) : Bool :=
  b.policy == .copyAll || (curAddr % wordBytes != 0 && !b.canUnaligned)

/-- R93: one block through BUF. The cursor moves when the request is acknowledged (log 16). -/
def bulkCopy (s : State) : State :=
  s.copyIn 0 128 fun t => t.issue bufRequest .bulk

/-- R94: the request for all remaining full blocks, straight from memory. -/
def bulkRequest (s : State) : Request :=
  ⟨.mem, s.curAddr.setWidth 64, BitVec.ofNat 64 (s.curLen.toNat / 128)⟩

/-- R94: the direct path. -/
def bulkDirect (s : State) : State := s.issue (bulkRequest s) .bulk

/-- R91: the phase BULK, one iteration of its loop. -/
def engineBulk (s : State) : State :=
  if 128 ≤ s.curLen.toNat then
    if copyPath s.build s.curAddr.toNat then bulkCopy s else bulkDirect s
  else { s with phase := .stash }

/-- R96: the phase STASH. -/
def engineStash (s : State) : State :=
  if s.curLen = 0 then s.finish
  else s.copyIn 0 s.curLen.toNat fun t => { t with bufLen := BitVec.ofNat 7 s.curLen.toNat }.finish

/-- R98, R99: one step of the Engine; in IDLE and WAIT_CMP it takes none. -/
def engineStep (s : State) : State :=
  match s.phase with
  | .idle => s
  | .count => engineCount s
  | .drain => engineDrain s
  | .bulk => engineBulk s
  | .stash => engineStash s
  | .waitCmp _ _ => s

end Sys2Proof.Machine
end

