-- ==== Sys2Proof/Machine/Access.lean ====
section
/-! DEFINITION. The Host's register accesses (20_memory.md R48 to R54, 42_control.md R113 to R124), and the place of
the register window on the host bus (R43). -/

namespace Sys2Proof.Machine

/-- R52: which accesses the BUF window supports, at byte `k` of it. -/
def windowTarget (k width : Nat) : Option Target :=
  if width = 8 ∨ (width = 32 ∧ k % 4 = 0) ∨ (width = 64 ∧ k % 8 = 0) then some (.window k (width / 8)) else none

/-- R20, R32, R49: what a 32-bit access below the window reaches. 0x44 is the upper half of FAULT_ADDR (log 13). -/
def target32 (off : BitVec 8) : Option Target :=
  if off = 0x00 then some .caps
  else if off = 0x08 then some .status
  else if off = 0x10 then some .cmd
  else if off = 0x18 then some (.srcAddr .lo)
  else if off = 0x1C then some (.srcAddr .hi)
  else if off = 0x20 then some (.len .lo)
  else if off = 0x24 then some (.len .hi)
  else if off = 0x28 then some (.cntLo .lo)
  else if off = 0x2C then some (.cntLo .hi)
  else if off = 0x30 then some (.cntHi .lo)
  else if off = 0x34 then some (.cntHi .hi)
  else if off = 0x38 then some .bufLen
  else if off = 0x40 then some (.faultAddr .lo)
  else if off = 0x44 then some (.faultAddr .hi)
  else none

/-- R20, R49: what a 64-bit access below the window reaches. -/
def target64 (off : BitVec 8) : Option Target :=
  if off = 0x18 then some (.srcAddr .whole)
  else if off = 0x20 then some (.len .whole)
  else if off = 0x28 then some (.cntLo .whole)
  else if off = 0x30 then some (.cntHi .whole)
  else if off = 0x40 then some (.faultAddr .whole)
  else none

/-- R52: what a host access reaches; `none` when the access is not supported. -/
def target (off : BitVec 8) (width : Nat) : Option Target :=
  if 0x80 ≤ off.toNat then windowTarget (off.toNat - 0x80) width
  else if width = 32 then target32 off
  else if width = 64 then target64 off
  else none

/-- R114: the registers whose reads return an unspecified value while BUSY = 1. -/
def Target.isContext : Target → Bool
  | .cntLo _ | .cntHi _ | .bufLen | .window _ _ => true
  | _ => false

/-- R114, R120 to R124: the value a register holds, as a read returns it (zero-extended, reserved bits 0). -/
def State.registerValue (s : State) : Target → Word
  | .caps => (capsWord s.build).setWidth 64
  | .status => s.statusWord.setWidth 64
  | .cmd => 0
  | .srcAddr p => p.select s.srcAddr
  | .len p => p.select s.len
  | .cntLo p => p.select s.cntLo
  | .cntHi p => p.select s.cntHi
  | .bufLen => s.bufLen.setWidth 64
  | .faultAddr p => p.select s.faultAddr
  | .window k n => BitVec.ofNat 64 (lanesValue (bufBytes s.buf k n))

/-- R114: what a supported read of `width` bits returns; a context register read while BUSY gives a free value
(log 10). -/
def State.readTarget (s : State) (t : Target) (width : Nat) : Word :=
  if s.busy && t.isContext then ((Config.freeRead s.draws).setWidth width).setWidth 64
  else s.registerValue t

/-- R113, R123: the command word `w` is written to CMD while BUSY = 0. -/
def submit (w : Word32) (s : State) : Result :=
  match decode w with
  | .command i => exec i s
  | .illegal _ => .next (s.raise .cmd)

/-- R116 to R119, R121, R123, R124: a supported write of `v` while BUSY = 0. -/
def writeIdle (t : Target) (v : Word) (s : State) : Result :=
  match t with
  | .caps => .next s
  | .status => .next (s.writeStatus (v.setWidth 32))
  | .cmd => submit (v.setWidth 32) s
  | .srcAddr p => .next { s with srcAddr := p.merge s.srcAddr v }
  | .len p => .next { s with len := p.merge s.len v }
  | .cntLo p => .next { s with cntLo := p.merge s.cntLo v }
  | .cntHi p => .next { s with cntHi := p.merge s.cntHi v }
  | .bufLen => .next { s with bufLen := v.setWidth 7 }
  | .faultAddr _ => .next s
  | .window k n => .next { s with buf := bufWrite s.buf k (lanesBytes n v.toNat) }

/-- R115, R121: a supported write while BUSY = 1: to STATUS it takes effect, any other is dropped with ERR_BUSY. -/
def writeBusy (t : Target) (v : Word) (s : State) : State :=
  match t with
  | .status => s.writeStatus (v.setWidth 32)
  | _ => s.raise .busy

/-- R52, R114, R115, R132: one host access. -/
def hostAccess (a : HostAccess) (s : State) : Result :=
  match target a.offset a.width with
  | none => .next (s.respond .busError)
  | some t =>
    match a.data with
    | none => .next (s.respond (.data a.width (s.readTarget t a.width)))
    | some v =>
      if s.busy then .next (writeBusy t v (s.respond .written))
      else writeIdle t v (s.respond .written)

/-! ### The window on the host bus -/

/-- R43: BASE. -/
def State.baseAddress (s : State) : Word := s.base ++ 0#8

/-- R43: the offset in the register window at `base` of a host bus address, if it lies in the window. -/
def windowOffset (base addr : Word) : Option (BitVec 8) :=
  if base.toNat ≤ addr.toNat ∧ addr.toNat ≤ base.toNat + 0xFF then some (BitVec.ofNat 8 (addr.toNat - base.toNat))
  else none

/-- R43: an access at a host bus address. Outside the window it is not the HBBM's: no state changes (log 22). -/
def busAccess (addr : Word) (width : Nat) (data : Option Word) (s : State) : Result :=
  match windowOffset s.baseAddress addr with
  | some off => hostAccess ⟨off, width, data⟩ s
  | none => .next s

end Sys2Proof.Machine
end

