-- ==== Sys2Proof/Machine/Compressor.lean ====
section
/-! DEFINITION. The Compressor agent's side of the interface: the blocks of a request, the BUF read port, the
acknowledgement, and the dispatched block stream (41_update.md section 5, R46). -/

namespace Sys2Proof.Machine

/-- R47: `k` consecutive blocks of a byte sequence. -/
def blocksOf : Nat → List Byte → List Block
  | 0, _ => []
  | k + 1, bs => bs.take 128 :: blocksOf k (bs.drop 128)

/-- R46: the BUF read port. Outside a BUF request it gives a free value. -/
def State.bufPort (s : State) (k : Fin 128) : Byte :=
  match s.phase with
  | .waitCmp ⟨.buf, _, _⟩ _ => s.buf[k]
  | _ => Config.freePort s.draws k.val

/-- R101, R103: the blocks the Compressor reads for a request; `none` when the platform refuses a read. -/
def State.requestBlocks (s : State) (r : Request) : Option (List Block) :=
  match r.src with
  | .buf => some [s.buf.toList]
  | .mem =>
    match s.memRead r.addr.toNat (128 * r.n.toNat) with
    | .bytes bs => some (blocksOf r.n.toNat bs)
    | .busError _ => none

/-- R99: the Engine goes back to the phase that issued the request. In BULK it first moves the cursor past the
request's blocks (R93, R94); in DRAIN it moved it before the request (R90). -/
def State.resumeAfter (s : State) (r : Request) : Resume → State
  | .drain => { s with phase := .drain }
  | .bulk => { (s.advance (128 * r.n.toNat)) with phase := .bulk }

/-- R99, R101: a turn of the Compressor. It absorbs the outstanding request's blocks and acknowledges; with no
request there is nothing to acknowledge (log 17). With a read refused the turn does nothing (R101). DESIGN CHOICE: the
next turn reads anew, so the Compressor is stuck only as long as a read of the request is refused (log 29). -/
def acknowledge (s : State) : State :=
  match s.phase with
  | .waitCmp r back =>
    match s.requestBlocks r with
    | some bs => { s with absorbed := s.absorbed ++ bs }.resumeAfter r back
    | none => s
  | _ => s

/-- R104: the dispatched block stream: the blocks of every request issued since reset, the outstanding one's last
(log 15). -/
def State.dispatched (s : State) : List Block :=
  match s.outstanding with
  | some r => s.absorbed ++ (s.requestBlocks r).getD []
  | none => s.absorbed

end Sys2Proof.Machine
end

