-- ==== Sys2Proof/Machine/HostProgram.lean ====
section
/-! DEFINITION. The Host's program: its statements (R70), the pseudo-instructions (R71), and a turn of the Host. -/

namespace Sys2Proof.Machine

/-! ### Statements and pseudo-instructions -/

/-- R70: `WR32 <offset>, v`. -/
def wr32 (off : BitVec 8) (v : Word32) : HostOp := .access ⟨off, 32, some (v.setWidth 64)⟩

/-- R70: `WR64 <offset>, v`. -/
def wr64 (off : BitVec 8) (v : Word) : HostOp := .access ⟨off, 64, some v⟩

/-- R70: `WR8 BUF+k, v`. -/
def wr8 (k : Fin 128) (v : Byte) : HostOp := .access ⟨BitVec.ofNat 8 (0x80 + k.val), 8, some (v.setWidth 64)⟩

/-- R70: `RD32 <offset>`. -/
def rd32 (off : BitVec 8) : HostOp := .access ⟨off, 32, none⟩

/-- R70: `RD64 <offset>`. -/
def rd64 (off : BitVec 8) : HostOp := .access ⟨off, 64, none⟩

/-- R70: `RD8 BUF+k`. -/
def rd8 (k : Fin 128) : HostOp := .access ⟨BitVec.ofNat 8 (0x80 + k.val), 8, none⟩

/-- R70: `WR32 CMD, <mnemonic>`. -/
def wrCmd (i : Instr) : HostOp := wr32 0x10 (encode i)

/-- The register access a statement makes, if it makes one: by its offset (R66), or at a bus address in the window of
BASE (R43). A POLL is a statement of its own. -/
def HostOp.registerAccess (op : HostOp) (base : Word) : Option HostAccess :=
  match op with
  | .access a => some a
  | .bus addr width data => (windowOffset base addr).map fun off => ⟨off, width, data⟩
  | .poll _ _ _ _ => none
  | .memWrite _ _ => none

/-- R71: `POLL STATUS.BUSY == 0`. -/
def pollIdle : HostOp := .poll 0x08 0 0 0

/-- R71: the pseudo-instruction `UPDATE a, n`. -/
def pseudoUpdate (a n : Word) : List HostOp := [wr64 0x18 a, wr64 0x20 n, wrCmd .update, pollIdle]

/-- R71: the pseudo-instruction `INIT`. -/
def pseudoInit : List HostOp := [wrCmd .clear, pollIdle]

/-- R71: the pseudo-instruction `CLRERR`. -/
def pseudoClrErr : List HostOp := [wr32 0x08 0x1E]

/-- R71: the pseudo-instruction `RESTORE lo, hi, m`. -/
def pseudoRestore (lo hi : Word) (m : Word32) : List HostOp := [wr64 0x28 lo, wr64 0x30 hi, wr32 0x38 m]

/-! ### A turn of the Host -/

/-- R12: the field `hi:lo` of a value. -/
def fieldOf (v : Word) (hi lo : Nat) : Nat := v.toNat / 2 ^ lo % 2 ^ (hi + 1 - lo)

/-- R70: one read of a POLL; the statement is done when the field has the value, else it stays first (log 24). -/
def hostPoll (off : BitVec 8) (hi lo value : Nat) (rest : List HostOp) (s : State) : State :=
  match target off 32 with
  | none => s.respond .busError
  | some t =>
    let v := s.readTarget t 32
    if fieldOf v hi lo = value then { s.respond (.data 32 v) with hostProg := rest }
    else s.respond (.data 32 v)

/-- R14, R160: the Host writes bytes of host data memory. While an UPDATE runs, the old values are kept as what it may
still read. Past address 2^64 - 1 there is no byte to write (log 20). -/
def hostMemWrite (a : Nat) (bs : List Byte) (s : State) : Result :=
  if a + bs.length ≤ addressLimit then
    .next { s with
      mem := Memory.writeBytes s.mem a bs
      raced := if s.busy then s.raced ++ Memory.cellsAt s.mem a bs.length else s.raced }
  else .fault .noSuchAddress

/-- R57: the Host's next statement, in its order; with none left the Host does nothing (log 3). -/
def hostStep (s : State) : Result :=
  match s.hostProg with
  | [] => .next s
  | .access a :: rest => hostAccess a { s with hostProg := rest }
  | .bus addr width data :: rest => busAccess addr width data { s with hostProg := rest }
  | .poll off hi lo value :: rest => .next (hostPoll off hi lo value rest s)
  | .memWrite a bs :: rest => hostMemWrite a bs { s with hostProg := rest }

/-- R7: one action of one agent. -/
def agentStep (a : Agent) (s : State) : Result :=
  match a with
  | .host => hostStep s
  | .engine => .next (engineStep s)
  | .compressor => .next (acknowledge s)
  | .reset => .next s.resetHbbm

end Sys2Proof.Machine
end

