-- ==== Sys2Proof/Machine/Step.lean ====
section
/-! DEFINITION. The step of the system: the agent whose turn it is acts once (R57). -/

namespace Sys2Proof.Machine

/-- One step. The first agent of the schedule moves; with an empty schedule the agent is a free value (log 2). -/
def step (s : State) : Host.Outcome State Fault Refusal :=
  match s.sched with
  | a :: rest => agentStep a (s.tick rest)
  | [] => agentStep (Config.freeAgent s.draws) (s.tick [])

/-- The Host's next statement is the write of the command word `w` to CMD, and the Host moves next (log 1). -/
def State.withFetchWord (s : State) (nbits w : Nat) : State :=
  { s with
    hostProg := wr32 0x10 (BitVec.ofNat 32 (w % 2 ^ nbits)) :: s.hostProg
    sched := .host :: s.sched }

end Sys2Proof.Machine
end

