-- ==== Sys2Proof/Machine/Summary.lean ====
section
/-! DEFINITION. UPDATE as one function of the context and the chunk's bytes (R111): what a whole UPDATE that meets no
bus error and no race leaves, with the requests it issues and the blocks it dispatches, computed as R98 computes
them. The machine does not use it; claims compare the machine's steps with it. -/

namespace Sys2Proof.Machine

/-- R17: the context, with the stale bytes of BUF. -/
structure Context where
  cntLo : Word
  cntHi : Word
  bufLen : BitVec 7
  buf : Vector Byte 128
  deriving DecidableEq, Repr

/-- What an UPDATE leaves and dispatches. -/
structure Summary where
  ctx : Context
  reqs : List Request
  blocks : List Block
  deriving DecidableEq, Repr

/-- The context a state holds. -/
def State.context (s : State) : Context := ⟨s.cntLo, s.cntHi, s.bufLen, s.buf⟩

/-- R17: the valid bytes of a context. -/
def Context.valid (c : Context) : List Byte := bufBytes c.buf 0 c.bufLen.toNat

/-- R25: the counter's value, `CNT_HI * 2^64 + CNT_LO`. -/
def Context.count (c : Context) : Nat := c.cntHi.toNat * 2 ^ 64 + c.cntLo.toNat

/-- R73: the counter step for a chunk of `n` bytes. -/
def countFn (c : Context) (n : Nat) : Context :=
  { c with
    cntLo := counterLow c.cntLo (BitVec.ofNat 64 n)
    cntHi := counterHigh c.cntLo c.cntHi (BitVec.ofNat 64 n) }

/-- R96: the remainder goes to the front of BUF. -/
def stashFn (c : Context) (rest : List Byte) : Context :=
  if rest = [] then c
  else { c with buf := bufWrite c.buf 0 rest, bufLen := BitVec.ofNat 7 rest.length }

/-- R91 to R96: the bulk phase and the stash of the bytes `rest` at address `a`. -/
def bulkFn (b : Build) (c : Context) (rest : List Byte) (a : Nat) : Summary :=
  let k := rest.length / 128
  if k = 0 then ⟨stashFn c rest, [], []⟩
  else if copyPath b a then
    ⟨stashFn { c with buf := bufWrite c.buf 0 ((rest.drop (128 * (k - 1))).take 128) } (rest.drop (128 * k)),
      List.replicate k bufRequest, blocksOf k rest⟩
  else
    ⟨stashFn c (rest.drop (128 * k)), [⟨.mem, BitVec.ofNat 64 a, BitVec.ofNat 64 k⟩], blocksOf k rest⟩

/-- R98, R111: a whole UPDATE of the bytes `chunk` at address `a`. -/
def updateFn (b : Build) (c : Context) (chunk : List Byte) (a : Nat) : Summary :=
  let held := c.bufLen.toNat
  if chunk = [] then ⟨c, [], []⟩
  else if held = 0 then bulkFn b (countFn c chunk.length) chunk a
  else if chunk.length < 128 - held then
    ⟨{ countFn c chunk.length with
        buf := bufWrite c.buf held chunk
        bufLen := BitVec.ofNat 7 (held + chunk.length) }, [], []⟩
  else
    let full := bufWrite c.buf held (chunk.take (128 - held))
    let r := bulkFn b { countFn c chunk.length with buf := full, bufLen := 0 } (chunk.drop (128 - held))
      (a + (128 - held))
    ⟨r.ctx, bufRequest :: r.reqs, full.toList :: r.blocks⟩

/-- Successive UPDATEs of chunks, each with its address (R106). -/
def updateAll (b : Build) (c : Context) : List (Nat × List Byte) → Summary
  | [] => ⟨c, [], []⟩
  | (a, chunk) :: rest =>
    let r := updateFn b c chunk a
    let q := updateAll b r.ctx rest
    ⟨q.ctx, r.reqs ++ q.reqs, r.blocks ++ q.blocks⟩

end Sys2Proof.Machine
end

