-- ==== Sys2Proof/Safety.lean ====
section
/-! DEFINITION. What claims are stated in: the invariant of the machine, a run without recorded errors, an UPDATE whose
input is there to be read, what the Host may do while it runs, and schedules in which it gets on. -/

namespace Sys2Proof.Machine

/-- R150: the premise "no error bit set". -/
def State.noError (s : State) : Prop := s.errs = Errors.none

/-- R102: the shapes of requests. -/
def requestOk (b : Build) (r : Request) : Prop :=
  match r.src with
  | .buf => r.addr = 0 ∧ r.n = 1
  | .mem =>
    1 ≤ r.n.toNat ∧ r.n.toNat ≤ 2 ^ 57 - 1 ∧ b.policy = .bulk ∧ (b.canUnaligned = true ∨ r.addr.toNat % wordBytes = 0)

/-- R34, R86: the cursor of a running UPDATE. -/
def cursorOk (s : State) : Prop :=
  s.curAddr.toNat + s.curLen.toNat = s.srcAddr.toNat + s.len.toNat ∧
    s.srcAddr.toNat + s.len.toNat ≤ addressLimit

/-- R93, R94: what the request issued in BULK has to do with the cursor, which moves at the acknowledgement. -/
def bulkRequestOk (s : State) (r : Request) : Prop :=
  match r.src with
  | .buf => 128 ≤ s.curLen.toNat
  | .mem => r.addr.toNat = s.curAddr.toNat ∧ r.n.toNat = s.curLen.toNat / 128

/-- What holds in each phase (R87 to R96). -/
def phaseOk (s : State) : Prop :=
  match s.phase with
  | .idle => s.raced = []
  | .count => s.curAddr.toNat = s.srcAddr.toNat ∧ s.curLen = s.len ∧ s.len ≠ 0
  | .drain => True
  | .bulk => s.bufLen = 0
  | .stash => s.bufLen = 0 ∧ s.curLen.toNat < 128
  | .waitCmp r back =>
    s.bufLen = 0 ∧ s.history.getLast? = some r ∧
      match back with
      | .drain => r = bufRequest
      | .bulk => bulkRequestOk s r

/-- The invariant: memory in canonical form, every issued request of a legal shape, every absorbed block of 128 bytes,
the cursor of a running UPDATE inside the address space and in step with the operand registers, and the phase's own
condition. -/
structure State.Inv (s : State) : Prop where
  memory : Memory.wf s.mem
  requests : ∀ r ∈ s.history, requestOk s.build r
  blocks : ∀ bl ∈ s.absorbed, bl.length = blockBytes
  cursor : s.busy = true → cursorOk s
  phase : phaseOk s

/-- R89, R90, R93, R96: how many bytes the Engine's next step copies from host data memory to BUF. -/
def engineReads (s : State) : Nat :=
  match s.phase with
  | .drain => if s.bufLen = 0 then 0 else min s.curLen.toNat (128 - s.bufLen.toNat)
  | .bulk => if 128 ≤ s.curLen.toNat ∧ copyPath s.build s.curAddr.toNat = true then 128 else 0
  | .stash => s.curLen.toNat
  | _ => 0

/-- R110: the first byte of BUF that the Engine's next step writes, if it writes any. -/
def engineOffset (s : State) : Nat :=
  match s.phase with
  | .drain => s.bufLen.toNat
  | _ => 0

/-- Memory holds the bytes `bs` from address `a` on, so that every one of them can be read. -/
def Memory.holds (m : Memory) (a : Nat) (bs : List Byte) : Prop :=
  ∀ i (h : i < bs.length), Memory.read m (a + i) = some bs[i]

/-- An UPDATE is about to be written by the Host, and all goes well: the Engine is idle, the Host's next statement is
the UPDATE word, the chunk of LEN bytes at SRC_ADDR lies in the address space and memory holds it. LEN may be 0. -/
structure UpdateReady (s : State) (chunk : List Byte) : Prop where
  idle : s.phase = .idle
  quiet : s.raced = []
  next : s.hostProg.head? = some (wrCmd .update)
  length : chunk.length = s.len.toNat
  range : s.srcAddr.toNat + s.len.toNat ≤ addressLimit
  readable : Memory.holds s.mem s.srcAddr.toNat chunk

/-- The Host's next statement does not disturb an UPDATE of the operands SRC_ADDR and LEN: a POLL; a register read; a
register write while BUSY, which is dropped or goes to STATUS (R115); an access outside the window; a memory write
outside the chunk (R160). -/
def State.hostUndisturbing (s : State) : Prop :=
  match s.hostProg with
  | [] => True
  | .poll _ _ _ _ :: _ => True
  | .memWrite a bs :: _ => a + bs.length ≤ s.srcAddr.toNat ∨ s.srcAddr.toNat + s.len.toNat ≤ a
  | op :: _ => ∀ a, op.registerAccess s.baseAddress = some a → a.data = none ∨ s.busy = true

/-- In the run of the `n` turns after the next one there is no Reset, and each turn of the Host leaves the UPDATE
undisturbed (R159, R160). -/
def State.undisturbed (s : State) (n : Nat) : Prop :=
  ∀ k t, 1 ≤ k → k ≤ n → Host.Core.run core k s = .next t →
    t.sched.head? ≠ some .reset ∧ (t.sched.head? = some .host → t.hostUndisturbing)

/-- A statement that only reads registers. -/
def HostOp.onlyReads : HostOp → Bool
  | .access a => a.data.isNone
  | .bus _ _ data => data.isNone
  | .poll _ _ _ _ => true
  | .memWrite _ _ => false

/-- R42: a statement that writes no address past the address space (log 20). -/
def HostOp.inSpace : HostOp → Bool
  | .memWrite a bs => decide (a + bs.length ≤ addressLimit)
  | _ => true

/-- How many rounds a schedule holds, a round being a turn of the Engine and a later turn of the Compressor, with any
other turns between them. The flag says that a round has begun. Every schedule in which both agents have infinitely
many turns (R166: weak fairness) has a beginning with as many rounds as one likes. -/
def rounds : Bool → List Agent → Nat
  | _, [] => 0
  | false, .engine :: rest => rounds true rest
  | true, .compressor :: rest => rounds false rest + 1
  | begun, _ :: rest => rounds begun rest

end Sys2Proof.Machine
end

