-- ==== Sys2Proof/Certificates/Slice0/Obligations.lean ====
section
/-! DEFINITION. The statements for the provers. Each docstring names the rule of spec/ it formalises. -/

open Sys2Proof Sys2Proof.Machine

/-! ### Encoding -/

/-- Words of 95_test_vectors.md section 2.3 (X1 to X4) and of R63, decoded; and the encoding of a Compressor request's
`src` (R69). -/
def Obligations.CommandWordsDecode : Prop :=
  decode 0x00000001#32 = .command .update ∧ decode 0x00000002#32 = .command .clear ∧
    decode 0x00000000#32 = .illegal .illegalOpcode ∧ decode 0x00000003#32 = .illegal .illegalOpcode ∧
    decode 0x000000FF#32 = .illegal .illegalOpcode ∧ decode 0x00000101#32 = .illegal .reservedBits ∧
    bufRequest.src.code = 0 ∧ ∀ s : State, (bulkRequest s).src.code = 1

/-- R62, R63: a word decodes to a command exactly when it is that command's word. -/
def Obligations.DecodeInvertsEncode : Prop :=
  ∀ (w : Word32) (i : Instr), decode w = .command i ↔ w = encode i

/-- R64, R115, R123: what a 32-bit write of any word to CMD does, in any state, and what a read of CMD returns. That the
bus answers a dropped write like a performed one (`resp`) is the model's choice (log 18). -/
def Obligations.CmdWriteDecodesTheWord : Prop :=
  ∀ (w : Word32) (s : State),
    (s.busy = true →
      hostAccess ⟨0x10, 32, some (w.setWidth 64)⟩ s
        = .next { s with resp := some .written, errs := { s.errs with busy := true } }) ∧
    (s.busy = false →
      hostAccess ⟨0x10, 32, some (w.setWidth 64)⟩ s
        = if w.toNat = 1 then exec .update { s with resp := some .written }
          else if w.toNat = 2 then exec .clear { s with resp := some .written }
          else .next { s with resp := some .written, errs := { s.errs with cmd := true } }) ∧
    hostAccess ⟨0x10, 32, none⟩ s = .next { s with resp := some (.data 32 0) }

/-! ### The counter -/

/-- R80: the counter step adds `8n` modulo `2^128`. -/
def Obligations.CounterStepIsExact : Prop :=
  ∀ lo hi n : Word,
    (counterHigh lo hi n).toNat * 2 ^ 64 + (counterLow lo n).toNat
      = (hi.toNat * 2 ^ 64 + lo.toNat + 8 * n.toNat) % 2 ^ 128

/-- R74, R75: the new low word, and the carry, which is 1 exactly when the low word wrapped, and else 0. -/
def Obligations.CounterCarryDetectsTheWrap : Prop :=
  ∀ lo n : Word,
    (counterLow lo n).toNat = (lo.toNat + (n.toNat * 8) % 2 ^ 64) % 2 ^ 64 ∧
      (n.toNat * 8) % 2 ^ 64 = (n.toNat % 2 ^ 61) * 8 ∧
    (counterCarry lo n = 1 ↔ counterLow lo n < lo) ∧ (counterCarry lo n = 0 ↔ ¬ counterLow lo n < lo) ∧
      (counterLow lo n < lo ↔ 2 ^ 64 ≤ lo.toNat + (n.toNat * 8) % 2 ^ 64)

/-- R82: two counter steps of `n1` and `n2` bytes are one of `n1 + n2` bytes. -/
def Obligations.CounterIgnoresChunking : Prop :=
  ∀ lo hi n1 n2 : Word, n1.toNat + n2.toNat < 2 ^ 64 →
    counterLow (counterLow lo n1) n2 = counterLow lo (n1 + n2) ∧
      counterHigh (counterLow lo n1) (counterHigh lo hi n1) n2 = counterHigh lo hi (n1 + n2)

/-- R79: outside the phase COUNT the Engine leaves the counter alone, unless a read failed and the context is lost. -/
def Obligations.OnlyCountMovesTheCounter : Prop :=
  ∀ s : State, s.phase ≠ .count →
    ((engineStep s).cntLo = s.cntLo ∧ (engineStep s).cntHi = s.cntHi) ∨
      ∃ x, s.memRead s.curAddr.toNat (engineReads s) = .busError x

/-! ### Acceptance of the commands -/

/-- R84, R86, R87, R73: an UPDATE with LEN ≠ 0 inside the address space (a chunk that ends at 2^64 exactly included)
starts the Engine with the latched operands; the Engine's first step is the counter step, and it then stands in DRAIN. -/
def Obligations.UpdateStartsTheEngine : Prop :=
  ∀ s : State, s.busy = false → s.len ≠ 0 → s.srcAddr.toNat + s.len.toNat ≤ 2 ^ 64 →
    ∃ t, exec .update s = .next t ∧
      t = { s with phase := .count, curAddr := s.srcAddr.setWidth 65, curLen := s.len } ∧
      t.busy = true ∧ t.curAddr.toNat = s.srcAddr.toNat ∧
      engineStep t = { t with
        cntLo := counterLow s.cntLo s.len
        cntHi := counterHigh s.cntLo s.cntHi s.len
        phase := .drain }

/-- R85: an UPDATE with LEN = 0 completes at acceptance and changes nothing. -/
def Obligations.ZeroLengthUpdateIsNoOp : Prop :=
  ∀ s : State, s.busy = false → s.len = 0 → exec .update s = .next s

/-- R130: an UPDATE past the top of the address space sets ERR_RANGE and ends with no other change. -/
def Obligations.RangeErrorRejectsUpdate : Prop :=
  ∀ s : State, s.busy = false → s.len ≠ 0 → 2 ^ 64 < s.srcAddr.toNat + s.len.toNat →
    exec .update s = .next { s with errs := { s.errs with range := true } }

/-- R112: CLEAR zeroes the counter and BUFLEN and changes nothing else; while BUSY it is dropped with ERR_BUSY. -/
def Obligations.ClearResetsTheContext : Prop :=
  ∀ s : State,
    (s.busy = false → exec .clear s = .next { s with cntLo := 0, cntHi := 0, bufLen := 0 }) ∧
    (s.busy = true → exec .clear s = .next { s with errs := { s.errs with busy := true } })

/-- R115, R129: a command written while BUSY is dropped with ERR_BUSY. -/
def Obligations.CommandsWhileBusyAreDropped : Prop :=
  ∀ (i : Instr) (s : State), s.busy = true → exec i s = .next { s with errs := { s.errs with busy := true } }

/-- R83, R112: the frame of both commands at acceptance. Neither writes SRC_ADDR, LEN, BUF, FAULT_ADDR, memory, the
history, the stream or anything of the Host's. UPDATE writes none of the context and raises at most ERR_BUSY and
ERR_RANGE; CLEAR leaves the phase and the cursor and raises at most ERR_BUSY. -/
def Obligations.CommandFrame : Prop :=
  ∀ (i : Instr) (s t : State), exec i s = .next t →
    t.build = s.build ∧ t.base = s.base ∧ t.srcAddr = s.srcAddr ∧ t.len = s.len ∧ t.buf = s.buf ∧
    t.faultAddr = s.faultAddr ∧
    t.cleared = s.cleared ∧ t.history = s.history ∧ t.absorbed = s.absorbed ∧ t.raced = s.raced ∧
    t.hostProg = s.hostProg ∧ t.resp = s.resp ∧ t.sched = s.sched ∧ t.draws = s.draws ∧
    (∀ a, Memory.read t.mem a = Memory.read s.mem a) ∧
    t.errs.cmd = s.errs.cmd ∧ t.errs.bus = s.errs.bus ∧
    match i with
    | .update =>
      t.cntLo = s.cntLo ∧ t.cntHi = s.cntHi ∧ t.bufLen = s.bufLen ∧
        (t.errs.busy ≠ s.errs.busy → s.busy = true) ∧
        (t.errs.range ≠ s.errs.range → s.busy = false ∧ s.len ≠ 0 ∧ 2 ^ 64 < s.srcAddr.toNat + s.len.toNat)
    | .clear =>
      t.phase = s.phase ∧ t.curAddr = s.curAddr ∧ t.curLen = s.curLen ∧ t.errs.range = s.errs.range ∧
        (t.errs.busy ≠ s.errs.busy → s.busy = true)

/-! ### The Engine's phases -/

/-- R89: the drain of a chunk that ends inside the partial block. -/
def Obligations.DrainKeepsPartialBlock : Prop :=
  ∀ (s : State) (bs : List Byte), s.phase = .drain → s.bufLen ≠ 0 →
    s.curLen.toNat < 128 - s.bufLen.toNat → s.memRead s.curAddr.toNat s.curLen.toNat = .bytes bs →
    (engineStep s).bufLen.toNat = s.bufLen.toNat + s.curLen.toNat ∧
    (∀ (k : Nat) (hk : k < 128), (engineStep s).buf[k]
      = if s.bufLen.toNat ≤ k ∧ k < s.bufLen.toNat + s.curLen.toNat then bs.getD (k - s.bufLen.toNat) 0
        else s.buf[k]) ∧
    engineStep s = { s with
      buf := (engineStep s).buf, bufLen := (engineStep s).bufLen, phase := .idle, raced := [] }

/-- R88, R90: the drain that fills the partial block and dispatches it; after the acknowledgement the Engine goes on
to BULK, and with nothing left it then ends in STASH with BUFLEN 0. -/
def Obligations.DrainDispatchesFullBlock : Prop :=
  ∀ (s : State) (bs : List Byte), s.phase = .drain → s.bufLen ≠ 0 →
    128 - s.bufLen.toNat ≤ s.curLen.toNat →
    s.memRead s.curAddr.toNat (128 - s.bufLen.toNat) = .bytes bs →
    (∀ (k : Nat) (hk : k < 128), (engineStep s).buf[k]
      = if s.bufLen.toNat ≤ k then bs.getD (k - s.bufLen.toNat) 0 else s.buf[k]) ∧
    (engineStep s).curLen.toNat = s.curLen.toNat - (128 - s.bufLen.toNat) ∧
    engineStep s = { s with
      buf := (engineStep s).buf
      bufLen := 0
      curAddr := s.curAddr + BitVec.ofNat 65 (128 - s.bufLen.toNat)
      curLen := (engineStep s).curLen
      history := s.history ++ [⟨.buf, 0, 1⟩]
      phase := .waitCmp ⟨.buf, 0, 1⟩ .drain } ∧
    engineStep (acknowledge (engineStep s))
      = { engineStep s with phase := .bulk, absorbed := s.absorbed ++ [(engineStep s).buf.toList] } ∧
    (s.curLen.toNat = 128 - s.bufLen.toNat →
      (engineStep (engineStep (acknowledge (engineStep s)))).phase = .stash ∧
      (engineStep (engineStep (engineStep (acknowledge (engineStep s))))).phase = .idle ∧
      (engineStep (engineStep (engineStep (acknowledge (engineStep s))))).bufLen = 0)

/-- R91, R92: the bulk phase ends with fewer than 128 bytes left; else which path an iteration takes. -/
def Obligations.BulkPathSelection : Prop :=
  ∀ s : State, s.phase = .bulk →
    if s.curLen.toNat < 128 then engineStep s = { s with phase := .stash }
    else if s.build.policy = .copyAll ∨ (s.curAddr.toNat % 8 ≠ 0 ∧ s.build.canUnaligned = false) then
      (engineStep s).outstanding = some ⟨.buf, 0, 1⟩ ∨
        ∃ x, s.memRead s.curAddr.toNat 128 = .busError x ∧ engineStep s = s.abort x
    else ∃ addr n, (engineStep s).outstanding = some ⟨.mem, addr, n⟩

/-- R93: one block on the copy path, from its copy to its acknowledgement. -/
def Obligations.BulkCopiesOneBlock : Prop :=
  ∀ (s : State) (bs : List Byte), s.phase = .bulk → 128 ≤ s.curLen.toNat →
    copyPath s.build s.curAddr.toNat = true → s.memRead s.curAddr.toNat 128 = .bytes bs →
    (engineStep s).buf.toList = bs ∧
    engineStep s = { s with
      buf := (engineStep s).buf
      history := s.history ++ [⟨.buf, 0, 1⟩]
      phase := .waitCmp ⟨.buf, 0, 1⟩ .bulk } ∧
    acknowledge (engineStep s) = { engineStep s with
      curAddr := s.curAddr + 128
      curLen := s.curLen - 128
      absorbed := s.absorbed ++ [bs]
      phase := .bulk }

/-- R94: the direct path, from its request to its acknowledgement. -/
def Obligations.BulkSendsAllFullBlocks : Prop :=
  ∀ s : State, s.phase = .bulk → 128 ≤ s.curLen.toNat → copyPath s.build s.curAddr.toNat = false →
    ∃ r : Request, r.src = .mem ∧ r.addr = s.curAddr.setWidth 64 ∧ r.n.toNat = s.curLen.toNat / 128 ∧
      1 ≤ r.n.toNat ∧
      engineStep s = { s with history := s.history ++ [r], phase := .waitCmp r .bulk } ∧
      ∀ bs, s.memRead r.addr.toNat (128 * r.n.toNat) = .bytes bs →
        acknowledge (engineStep s) = { s with
          history := s.history ++ [r]
          absorbed := s.absorbed ++ blocksOf r.n.toNat bs
          curAddr := s.curAddr + BitVec.ofNat 65 (128 * r.n.toNat)
          curLen := BitVec.ofNat 64 (s.curLen.toNat % 128)
          phase := .bulk }

/-- R96: the remainder goes to the front of BUF and the command ends. -/
def Obligations.StashKeepsRemainder : Prop :=
  ∀ (s : State) (bs : List Byte), s.phase = .stash → s.curLen.toNat < 128 →
    s.memRead s.curAddr.toNat s.curLen.toNat = .bytes bs →
    (s.curLen = 0 → engineStep s = { s with phase := .idle, raced := [] }) ∧
    (s.curLen ≠ 0 →
      (engineStep s).bufLen.toNat = s.curLen.toNat ∧
      (∀ (k : Nat) (hk : k < 128), (engineStep s).buf[k]
        = if k < s.curLen.toNat then bs.getD k 0 else s.buf[k]) ∧
      engineStep s = { s with
        buf := (engineStep s).buf, bufLen := (engineStep s).bufLen, phase := .idle, raced := [] })

/-- R45, R97, R131, R134: the first byte of a copy whose read fails ends the command with ERR_BUS and its address, and
no further request is issued. The context is then unspecified (R135): nothing is said of it. -/
def Obligations.FailedReadAborts : Prop :=
  ∀ (s : State) (x : Nat), s.memRead s.curAddr.toNat (engineReads s) = .busError x →
    s.curAddr.toNat ≤ x ∧ x < s.curAddr.toNat + engineReads s ∧ s.busRead x = none ∧
    (∀ y, s.curAddr.toNat ≤ y → y < x → (s.busRead y).isSome) ∧
    (engineStep s).errs = { s.errs with bus := true } ∧
    (engineStep s).faultAddr = BitVec.ofNat 64 x ∧
    (engineStep s).phase = .idle ∧
    (engineStep s).history = s.history ∧ (engineStep s).absorbed = s.absorbed ∧
    (engineStep s).srcAddr = s.srcAddr ∧ (engineStep s).len = s.len ∧ (engineStep s).mem = s.mem

/-- R110: a step of the Engine whose reads succeed writes the bytes it copies and no other byte of BUF. -/
def Obligations.EngineWritesOnlyItsCopy : Prop :=
  ∀ (s : State) (bs : List Byte), s.memRead s.curAddr.toNat (engineReads s) = .bytes bs →
    ∀ (k : Nat) (hk : k < 128), (engineStep s).buf[k]
      = if engineOffset s ≤ k ∧ k < engineOffset s + engineReads s then bs.getD (k - engineOffset s) 0
        else s.buf[k]

/-- The frame of an Engine step (R21, R28, R44, R83): what none of them writes. -/
def Obligations.EngineFrame : Prop :=
  ∀ s : State,
    (engineStep s).build = s.build ∧ (engineStep s).base = s.base ∧ (engineStep s).srcAddr = s.srcAddr ∧
    (engineStep s).len = s.len ∧
    (engineStep s).absorbed = s.absorbed ∧ (engineStep s).cleared = s.cleared ∧ (engineStep s).resp = s.resp ∧
    (engineStep s).hostProg = s.hostProg ∧
    (∀ a, Memory.read (engineStep s).mem a = Memory.read s.mem a) ∧
    (engineStep s).errs.cmd = s.errs.cmd ∧ (engineStep s).errs.busy = s.errs.busy ∧
    (engineStep s).errs.range = s.errs.range ∧
    ((engineStep s).errs.bus = s.errs.bus ∧ (engineStep s).faultAddr = s.faultAddr ∨
      ∃ x, s.memRead s.curAddr.toNat (engineReads s) = .busError x) ∧
    (s.busy = false → engineStep s = s)

/-! ### The Compressor interface -/

/-- R99, R101, R149, R153: while a request is outstanding the Engine takes no step, and of all turns of all agents only
one of the Compressor that can read every block, or one of Reset, ends the wait; a refused read leaves the state as it
is. -/
def Obligations.EngineWaitsForAcknowledgement : Prop :=
  ∀ (s : State) (r : Request) (back : Resume), s.phase = .waitCmp r back →
    engineStep s = s ∧
    (s.requestBlocks r = none → acknowledge s = s) ∧
    (∀ bs, s.requestBlocks r = some bs →
      (acknowledge s).absorbed = s.absorbed ++ bs ∧ (acknowledge s).outstanding = none ∧
      (acknowledge s).history = s.history ∧
      (acknowledge s).phase = match back with | .drain => .drain | .bulk => .bulk) ∧
    ∀ (a : Agent) (t : State), agentStep a s = .next t → t.phase ≠ s.phase →
      (a = .compressor ∧ (s.requestBlocks r).isSome = true) ∨ (a = .reset ∧ t.phase = .idle)

/-- R104: an acknowledgement does not change the dispatched block stream, which counts a request from its issue. -/
def Obligations.AcknowledgeKeepsTheStream : Prop :=
  ∀ s : State, (acknowledge s).dispatched = s.dispatched

/-- R46, R100: under a BUF request no agent but Reset changes BUF, and the read port gives BUF. -/
def Obligations.BufStableUnderRequest : Prop :=
  ∀ (s : State) (addr n : Word) (back : Resume), s.phase = .waitCmp ⟨.buf, addr, n⟩ back →
    (∀ k : Fin 128, s.bufPort k = s.buf[k]) ∧
      ∀ (a : Agent) (t : State), a ≠ .reset → agentStep a s = .next t → t.buf = s.buf

/-! ### Register access -/

/-- R20, R43, R49, R52: the supported accesses, and the place of the window on the host bus. That 0x44 is supported, as
the upper half of FAULT_ADDR (R49), and not reserved (R32) is the model's reading (log 13). That an access outside the
window changes nothing is the model's (log 22). -/
def Obligations.SupportedAccesses : Prop :=
  (∀ (off : BitVec 8) (width : Nat),
    (target off width).isSome = true ↔
      (width = 32 ∧ off.toNat ∈ [0x00, 0x08, 0x10, 0x18, 0x1C, 0x20, 0x24, 0x28, 0x2C, 0x30, 0x34, 0x38, 0x40, 0x44]) ∨
      (width = 64 ∧ off.toNat ∈ [0x18, 0x20, 0x28, 0x30, 0x40]) ∨
      (0x80 ≤ off.toNat ∧ (width = 8 ∨ (width = 32 ∧ off.toNat % 4 = 0) ∨ (width = 64 ∧ off.toNat % 8 = 0)))) ∧
    ∀ (s : State) (addr : Word) (width : Nat) (data : Option Word) (rest : List HostOp),
      s.hostProg = .bus addr width data :: rest →
      agentStep .host s
        = if 256 * s.base.toNat ≤ addr.toNat ∧ addr.toNat ≤ 256 * s.base.toNat + 0xFF then
            agentStep .host { s with
              hostProg := .access ⟨BitVec.ofNat 8 (addr.toNat - 256 * s.base.toNat), width, data⟩ :: rest }
          else .next { s with hostProg := rest }

/-- R132: an unsupported access gets the bus error response and changes nothing, whatever the state. -/
def Obligations.UnsupportedAccessChangesNothing : Prop :=
  ∀ (a : HostAccess) (s : State), target a.offset a.width = none →
    hostAccess a s = .next { s with resp := some .busError }

/-- R49, R114: a 64-bit register reads whole or by halves; CNT_LO and CNT_HI only while idle. That a 32-bit
read at 0x44 returns the upper half of FAULT_ADDR (R49) and gets no bus error (R32) is the model's reading (log 13). -/
def Obligations.WideRegistersReadByHalves : Prop :=
  ∀ s : State,
    (∀ p ∈ [(0x18#8, s.srcAddr), (0x20#8, s.len), (0x40#8, s.faultAddr)],
      hostAccess ⟨p.1, 64, none⟩ s = .next { s with resp := some (.data 64 p.2) } ∧
      hostAccess ⟨p.1, 32, none⟩ s = .next { s with resp := some (.data 32 (BitVec.ofNat 64 (p.2.toNat % 2 ^ 32))) } ∧
      hostAccess ⟨p.1 + 4, 32, none⟩ s
        = .next { s with resp := some (.data 32 (BitVec.ofNat 64 (p.2.toNat / 2 ^ 32))) }) ∧
    (s.busy = false → ∀ p ∈ [(0x28#8, s.cntLo), (0x30#8, s.cntHi)],
      hostAccess ⟨p.1, 64, none⟩ s = .next { s with resp := some (.data 64 p.2) } ∧
      hostAccess ⟨p.1, 32, none⟩ s = .next { s with resp := some (.data 32 (BitVec.ofNat 64 (p.2.toNat % 2 ^ 32))) } ∧
      hostAccess ⟨p.1 + 4, 32, none⟩ s
        = .next { s with resp := some (.data 32 (BitVec.ofNat 64 (p.2.toNat / 2 ^ 32))) })

/-- R116, R117: writes of SRC_ADDR, LEN, CNT_LO and CNT_HI while idle, whole or by halves, change only the bits they
reach. -/
def Obligations.WideRegistersWriteByHalves : Prop :=
  ∀ (s : State) (v : Word), s.busy = false →
    hostAccess ⟨0x18, 64, some v⟩ s = .next { s with resp := some .written, srcAddr := v } ∧
    hostAccess ⟨0x18, 32, some v⟩ s = .next { s with
      resp := some .written
      srcAddr := BitVec.ofNat 64 (s.srcAddr.toNat / 2 ^ 32 * 2 ^ 32 + v.toNat % 2 ^ 32) } ∧
    hostAccess ⟨0x1C, 32, some v⟩ s = .next { s with
      resp := some .written
      srcAddr := BitVec.ofNat 64 (v.toNat % 2 ^ 32 * 2 ^ 32 + s.srcAddr.toNat % 2 ^ 32) } ∧
    hostAccess ⟨0x20, 64, some v⟩ s = .next { s with resp := some .written, len := v } ∧
    hostAccess ⟨0x20, 32, some v⟩ s = .next { s with
      resp := some .written
      len := BitVec.ofNat 64 (s.len.toNat / 2 ^ 32 * 2 ^ 32 + v.toNat % 2 ^ 32) } ∧
    hostAccess ⟨0x24, 32, some v⟩ s = .next { s with
      resp := some .written
      len := BitVec.ofNat 64 (v.toNat % 2 ^ 32 * 2 ^ 32 + s.len.toNat % 2 ^ 32) } ∧
    hostAccess ⟨0x28, 64, some v⟩ s = .next { s with resp := some .written, cntLo := v } ∧
    hostAccess ⟨0x28, 32, some v⟩ s = .next { s with
      resp := some .written
      cntLo := BitVec.ofNat 64 (s.cntLo.toNat / 2 ^ 32 * 2 ^ 32 + v.toNat % 2 ^ 32) } ∧
    hostAccess ⟨0x2C, 32, some v⟩ s = .next { s with
      resp := some .written
      cntLo := BitVec.ofNat 64 (v.toNat % 2 ^ 32 * 2 ^ 32 + s.cntLo.toNat % 2 ^ 32) } ∧
    hostAccess ⟨0x30, 64, some v⟩ s = .next { s with resp := some .written, cntHi := v } ∧
    hostAccess ⟨0x30, 32, some v⟩ s = .next { s with
      resp := some .written
      cntHi := BitVec.ofNat 64 (s.cntHi.toNat / 2 ^ 32 * 2 ^ 32 + v.toNat % 2 ^ 32) } ∧
    hostAccess ⟨0x34, 32, some v⟩ s = .next { s with
      resp := some .written
      cntHi := BitVec.ofNat 64 (v.toNat % 2 ^ 32 * 2 ^ 32 + s.cntHi.toNat % 2 ^ 32) }

/-- R118: a write of BUFLEN while idle keeps bits 6:0 and does not change BUF. -/
def Obligations.BuflenWriteKeepsSevenBits : Prop :=
  ∀ (s : State) (v : Word), s.busy = false →
    hostAccess ⟨0x38, 32, some v⟩ s
      = .next { s with resp := some .written, bufLen := BitVec.ofNat 7 (v.toNat % 128) } ∧
    ∀ t, hostAccess ⟨0x38, 32, some v⟩ s = .next t → t.bufLen.toNat = v.toNat % 128

/-- R115, R119: a write to the BUF window while idle stores the bytes of the value on little-endian lanes and changes no
other byte; while BUSY it is dropped. That the bus answers a dropped write like a performed one (`resp`) is the model's
choice (log 18). -/
def Obligations.WindowWriteStoresLanes : Prop :=
  ∀ (s : State) (off : BitVec 8) (n : Nat) (v : Word), 0x80 ≤ off.toNat →
    (n = 1 ∨ n = 4 ∨ n = 8) → off.toNat % n = 0 →
    (s.busy = false → ∃ t, hostAccess ⟨off, 8 * n, some v⟩ s = .next t ∧
      t = { s with resp := some .written, buf := t.buf } ∧
      ∀ (k : Nat) (hk : k < 128), t.buf[k]
        = if off.toNat - 0x80 ≤ k ∧ k < off.toNat - 0x80 + n then
            BitVec.ofNat 8 (v.toNat / 2 ^ (8 * (k - (off.toNat - 0x80))))
          else s.buf[k]) ∧
    (s.busy = true → ∃ t, hostAccess ⟨off, 8 * n, some v⟩ s = .next t ∧
      t = { s with resp := some .written, errs := { s.errs with busy := true } })

/-- R48, R120: a read of the BUF window while idle assembles the bytes on little-endian lanes. -/
def Obligations.WindowReadAssemblesLanes : Prop :=
  ∀ (s : State) (off : BitVec 8) (n : Nat), 0x80 ≤ off.toNat → (n = 1 ∨ n = 4 ∨ n = 8) → off.toNat % n = 0 →
    s.busy = false →
    hostAccess ⟨off, 8 * n, none⟩ s = .next { s with
      resp := some (.data (8 * n)
        (BitVec.ofNat 64 (∑ b ∈ Finset.range n,
          ((s.buf.toList.getD (off.toNat - 0x80 + b) 0).toNat * 2 ^ (8 * b))))) }

/-- R48, R119, R120: a read of the BUF window returns what was just written there. -/
def Obligations.WindowReadAfterWrite : Prop :=
  ∀ (s t u : State) (off : BitVec 8) (n : Nat) (v : Word), 0x80 ≤ off.toNat →
    (n = 1 ∨ n = 4 ∨ n = 8) → off.toNat % n = 0 → s.busy = false →
    hostAccess ⟨off, 8 * n, some v⟩ s = .next t → hostAccess ⟨off, 8 * n, none⟩ t = .next u →
    u.resp = some (.data (8 * n) (BitVec.ofNat 64 (v.toNat % 2 ^ (8 * n))))

/-- R26, R54, R114: a read changes nothing but the Host's answer. While BUSY a read of the context gives a free value
(log 10), whatever the registers hold; while idle a read of BUFLEN returns the field, with bits 31:7 zero. -/
def Obligations.ReadsHaveNoSideEffect : Prop :=
  ∀ (a : HostAccess) (s : State), a.data = none →
    ∃ r, hostAccess a s = .next { s with resp := some r } ∧
      (∀ t, target a.offset a.width = some t →
        r = .data a.width
          (if s.busy = true ∧ t.isContext = true then ((Config.freeRead s.draws).setWidth a.width).setWidth 64
            else s.registerValue t)) ∧
      (s.busy = false → a.offset = 0x38 → a.width = 32 → r = .data 32 (BitVec.ofNat 64 s.bufLen.toNat))

/-- R115, R121: while BUSY every supported write is dropped with ERR_BUSY, but a write to STATUS takes effect. That the
bus answers a dropped write like a performed one (`resp`) is the model's choice (log 18). -/
def Obligations.WritesWhileBusyAreDropped : Prop :=
  ∀ (a : HostAccess) (v : Word) (s : State), s.busy = true → a.data = some v →
    (target a.offset a.width).isSome = true →
    (a.offset ≠ 0x08 →
      hostAccess a s = .next { s with resp := some .written, errs := { s.errs with busy := true } }) ∧
    (a.offset = 0x08 →
      hostAccess a s = .next ({ s with resp := some .written }.writeStatus (v.setWidth 32)))

/-- R121: a write to STATUS, at any time, clears the error bits written as 1 and changes nothing else. The record of what
it cleared (`cleared`) is the model's reading of R150 (log 19). -/
def Obligations.StatusWriteClearsOnes : Prop :=
  ∀ (v : Word) (s : State), ∃ t, hostAccess ⟨0x08, 32, some v⟩ s = .next t ∧
    t = { s with resp := some .written, errs := t.errs, cleared := t.cleared } ∧
    ∀ e : Err, t.errs.get e = (s.errs.get e && !v.getLsbD e.code) ∧
      t.cleared.get e = (s.cleared.get e || (s.errs.get e && v.getLsbD e.code))

/-- R28, R33, R122: what a read of STATUS returns at any time. -/
def Obligations.StatusReadShowsTheFlags : Prop :=
  ∀ s : State, ∃ v : Word, hostAccess ⟨0x08, 32, none⟩ s = .next { s with resp := some (.data 32 v) } ∧
    (v.getLsbD 0 = true ↔ s.phase ≠ .idle) ∧ (∀ e : Err, v.getLsbD e.code = s.errs.get e) ∧
    ∀ i, 5 ≤ i → v.getLsbD i = false

/-- R29: CAPS reads the build's constants in every state, and no step changes them. -/
def Obligations.CapsIsTheBuild : Prop :=
  (∀ s : State, hostAccess ⟨0x00, 32, none⟩ s = .next { s with resp := some (.data 32 (BitVec.ofNat 64
      (7 + 3 * 2 ^ 8 + (if s.build.canUnaligned then 2 ^ 12 else 0)
        + (if s.build.policy = .copyAll then 2 ^ 13 else 0) + 64 * 2 ^ 16))) }) ∧
    ∀ s t : State, step s = .next t → t.build = s.build ∧ t.base = s.base

/-- R32, R49, R124: a write to CAPS or FAULT_ADDR while idle is ignored without error. That the bus answers it like a
performed write (`resp`) is the model's choice (log 18). That a 32-bit write at 0x44 is one to FAULT_ADDR (R49) and
gets no bus error (R32) is the model's reading (log 13). -/
def Obligations.ReadOnlyWritesAreIgnored : Prop :=
  ∀ (s : State) (v : Word), s.busy = false →
    hostAccess ⟨0x00, 32, some v⟩ s = .next { s with resp := some .written } ∧
    hostAccess ⟨0x40, 64, some v⟩ s = .next { s with resp := some .written } ∧
    hostAccess ⟨0x40, 32, some v⟩ s = .next { s with resp := some .written } ∧
    hostAccess ⟨0x44, 32, some v⟩ s = .next { s with resp := some .written }

/-- R129: a turn of the Host while BUSY leaves the running command as it is: its phase, cursor, operands, context,
requests and blocks. -/
def Obligations.HostCannotDisturbTheCommand : Prop :=
  ∀ s t : State, s.busy = true → agentStep .host s = .next t →
    t.phase = s.phase ∧ t.curAddr = s.curAddr ∧ t.curLen = s.curLen ∧ t.srcAddr = s.srcAddr ∧ t.len = s.len ∧
    t.cntLo = s.cntLo ∧ t.cntHi = s.cntHi ∧ t.bufLen = s.bufLen ∧ t.buf = s.buf ∧ t.faultAddr = s.faultAddr ∧
    t.history = s.history ∧ t.absorbed = s.absorbed ∧ t.build = s.build ∧ t.base = s.base

/-- R70: a POLL reads its register and is done exactly when the field has the value. -/
def Obligations.PollRepeatsUntilEqual : Prop :=
  ∀ (s : State) (off : BitVec 8) (hi lo value : Nat) (rest : List HostOp) (t : Target),
    s.hostProg = .poll off hi lo value :: rest → target off 32 = some t →
    agentStep .host s = .next { s with
      resp := some (.data 32 (s.readTarget t 32))
      hostProg := if (s.readTarget t 32).toNat / 2 ^ lo % 2 ^ (hi + 1 - lo) = value then rest else s.hostProg }

/-! ### Rules of the whole machine -/

/-- R28, R39, R139: only a Host write of 1 to its STATUS bit, or Reset, clears an error bit. -/
def Obligations.ErrorBitsAreSticky : Prop :=
  ∀ (a : Agent) (s t : State) (e : Err), agentStep a s = .next t → s.errs.get e = true → t.errs.get e = false →
    a = .reset ∨
      (a = .host ∧ ∃ op rest v, s.hostProg = op :: rest ∧
        op.registerAccess s.baseAddress = some ⟨0x08, 32, some v⟩ ∧ v.getLsbD e.code = true)

/-- R137: one event sets at most one error bit. -/
def Obligations.OneEventSetsOneErrorBit : Prop :=
  ∀ (a : Agent) (s t : State) (e f : Err), agentStep a s = .next t →
    s.errs.get e = false → t.errs.get e = true → s.errs.get f = false → t.errs.get f = true → e = f

/-- R31, R134: FAULT_ADDR is written only by ERR_BUS, with the address of the byte whose read failed, and by Reset,
with 0. -/
def Obligations.FaultAddrOnlyFromErrBus : Prop :=
  ∀ (a : Agent) (s t : State), agentStep a s = .next t → t.faultAddr ≠ s.faultAddr →
    (a = .reset ∧ t.faultAddr = 0) ∨
      (a = .engine ∧ t.errs.bus = true ∧
        ∃ x, s.memRead s.curAddr.toNat (engineReads s) = .busError x ∧ t.faultAddr = BitVec.ofNat 64 x)

/-- R44: only a memory write of the Host changes host data memory, and only the bytes it writes. -/
def Obligations.OnlyTheHostWritesMemory : Prop :=
  ∀ (a : Agent) (s t : State) (x : Nat), agentStep a s = .next t → Memory.read t.mem x ≠ Memory.read s.mem x →
    a = .host ∧ ∃ addr bs rest, s.hostProg = .memWrite addr bs :: rest ∧ addr ≤ x ∧ x < addr + bs.length ∧
      Memory.read t.mem x = bs[x - addr]?

/-- R21, R22, R23: SRC_ADDR and LEN are changed only by a Host write to them while idle, and by Reset. -/
def Obligations.OperandsChangeOnlyByHostWrite : Prop :=
  ∀ (a : Agent) (s t : State), agentStep a s = .next t → (t.srcAddr ≠ s.srcAddr ∨ t.len ≠ s.len) →
    a = .reset ∨
      (a = .host ∧ s.busy = false ∧ ∃ op rest off width v, s.hostProg = op :: rest ∧
        op.registerAccess s.baseAddress = some ⟨off, width, some v⟩ ∧ off ∈ [0x18#8, 0x1C#8, 0x20#8, 0x24#8])

/-- R160: after a Host write to memory while an UPDATE runs, a read of the UPDATE returns the new value or the old one.
That with several writes to a byte during one UPDATE it may also return a value that an earlier one replaced goes past
R160's two values and is the model's reading (log 12). -/
def Obligations.RacedReadIsOldOrNew : Prop :=
  ∀ (s t : State) (a x : Nat) (bs : List Byte), s.busy = true → hostMemWrite a bs s = .next t →
    t.busRead x = Memory.read t.mem x ∨ t.busRead x = Memory.read s.mem x ∨
      ∃ old ∈ oldValues s.raced x, t.busRead x = some old

/-- R42: a memory write of the Host past address 2^64 - 1 is a fault (log 20), and any other completes. -/
def Obligations.MemoryWriteStaysInTheAddressSpace : Prop :=
  ∀ (s : State) (a : Nat) (bs : List Byte) (rest : List HostOp), s.hostProg = .memWrite a bs :: rest →
    (2 ^ 64 < a + bs.length → agentStep .host s = .fault .noSuchAddress) ∧
      (a + bs.length ≤ 2 ^ 64 → ∃ t, agentStep .host s = .next t ∧ t.hostProg = rest ∧
        ∀ i (h : i < bs.length), Memory.read t.mem (a + i) = some bs[i])

/-! ### Reset -/

/-- R152: the reset values the spec gives, at State.reset. -/
def Obligations.ResetValues : Prop :=
  State.reset.statusWord = 0 ∧ State.reset.srcAddr = 0 ∧ State.reset.len = 0 ∧ State.reset.cntLo = 0 ∧
    State.reset.cntHi = 0 ∧ State.reset.bufLen = 0 ∧ State.reset.faultAddr = 0 ∧ State.reset.phase = .idle ∧
    State.reset.outstanding = none ∧ State.reset.history = [] ∧ State.reset.dispatched = []

/-- R151, R152, R153: a Reset step in any state gives the reset values, discards the command and the request, starts
the history and the stream empty, and leaves CAPS. That host data memory survives it is the model's reading of R44, by
which the HBBM never writes it (log 7). -/
def Obligations.ResetStepAbortsAndClears : Prop :=
  ∀ s : State, ∃ t, agentStep .reset s = .next t ∧ t.statusWord = 0 ∧ t.srcAddr = 0 ∧ t.len = 0 ∧ t.cntLo = 0 ∧
    t.cntHi = 0 ∧ t.bufLen = 0 ∧ t.faultAddr = 0 ∧ t.phase = .idle ∧ t.outstanding = none ∧ t.history = [] ∧
    t.dispatched = [] ∧ capsWord t.build = capsWord s.build ∧ t.mem = s.mem ∧ t.validBytes = []

/-! ### The step -/

/-- R57, R123: a step is one turn of one agent: the schedule's first, when it has one. When that is the Host, its next
statement writes a command word to CMD, and the Engine is idle, the step runs the decoded command. -/
def Obligations.StepRunsTheDecodedCommand : Prop :=
  (∀ s : State, ∃ a, (∀ b, s.sched.head? = some b → a = b) ∧ step s = agentStep a (s.tick s.sched.tail)) ∧
    ∀ (s : State) (sched : List Agent) (prog : List HostOp) (w : Word32) (i : Instr),
      s.sched = .host :: sched → s.hostProg = wr32 0x10 w :: prog → s.busy = false → decode w = .command i →
      step s = exec i { s with
        sched := sched, hostProg := prog, draws := s.draws + 1, resp := some .written }

/-! ### Invariant -/

/-- State.reset meets the invariant. -/
def Obligations.ResetMeetsInvariant : Prop := State.reset.Inv

/-- R34, R38, R43, R86, R102: every step keeps the invariant, from every state that meets it, whichever agent moves. -/
def Obligations.StepKeepsInvariant : Prop :=
  ∀ s t : State, s.Inv → step s = .next t → t.Inv

/-! ### Whole UPDATEs -/

/-- R98, R111: from a Host write of UPDATE whose chunk can be read, every run of turns of the Host, the Engine and the
Compressor that reaches IDLE, in which the Host disturbs nothing (it reads, POLLs, makes writes that are dropped or go
to STATUS while BUSY, and writes memory outside the chunk), leaves what the summary function computes. No error bit but
ERR_BUSY is new, and where the Host only reads no error bit and no byte of memory changed. -/
def Obligations.UpdateRunMatchesSummary : Prop :=
  ∀ (s t : State) (chunk : List Byte) (agents : List Agent), UpdateReady s chunk → s.sched = .host :: agents →
    s.undisturbed agents.length → Host.Core.run core (agents.length + 1) s = .next t → t.phase = .idle →
    let r := updateFn s.build s.context chunk s.srcAddr.toNat
    t.context = r.ctx ∧ t.history = s.history ++ r.reqs ∧ t.absorbed = s.absorbed ++ r.blocks ∧
      t.srcAddr = s.srcAddr ∧ t.len = s.len ∧ t.faultAddr = s.faultAddr ∧ Memory.holds t.mem s.srcAddr.toNat chunk ∧
      (∀ e : Err, e ≠ .busy → t.errs.get e = true → s.errs.get e = true) ∧
      ((∀ op ∈ s.hostProg.tail, op.onlyReads = true) → t.errs = s.errs ∧ t.mem = s.mem)

/-- R105: the one-command law, of the machine's runs, the Host's undisturbing turns included. -/
def Obligations.OneCommandLaw : Prop :=
  ∀ (s t : State) (chunk : List Byte) (agents : List Agent), UpdateReady s chunk → s.sched = .host :: agents →
    s.undisturbed agents.length → Host.Core.run core (agents.length + 1) s = .next t → t.phase = .idle →
    let all := s.validBytes ++ chunk
    let m := s.bufLen.toNat + chunk.length
    t.dispatched = s.dispatched ++ blocksOf (m / 128) all ∧ t.bufLen.toNat = m % 128 ∧
      t.validBytes = all.drop (m - m % 128) ∧
      t.context.count = (s.context.count + 8 * chunk.length) % 2 ^ 128

/-- R166: an UPDATE reaches `finish` in every schedule without Reset that holds LEN div 128 + 5 rounds (every weakly fair
one has such a beginning), with at most 1 + LEN div 128 requests, when the Compressor can read what it is asked for.
Whether the Engine's reads succeed does not matter, nor what the Host does meanwhile. -/
def Obligations.UpdateFinishes : Prop :=
  ∀ (s : State) (agents : List Agent), s.phase = .idle → s.raced = [] → s.hostProg.head? = some (wrCmd .update) →
    (∀ op ∈ s.hostProg, op.inSpace = true) → s.sched = .host :: agents → .reset ∉ agents →
    s.len.toNat / 128 + 5 ≤ rounds false agents →
    (∀ k u r, k ≤ agents.length → Host.Core.run core k s = .next u → u.outstanding = some r →
      (u.requestBlocks r).isSome = true) →
    ∃ k t, k ≤ agents.length ∧ Host.Core.run core (k + 1) s = .next t ∧ t.phase = .idle ∧
      t.history.length ≤ s.history.length + 1 + s.len.toNat / 128

/-- R109: neither the build nor the addresses nor stale bytes matter to what UPDATEs leave and dispatch. -/
def Obligations.PathAndPolicyIndependence : Prop :=
  ∀ (b b' : Build) (c c' : Context) (xs ys : List (Nat × List Byte)),
    c.cntLo = c'.cntLo → c.cntHi = c'.cntHi → c.bufLen = c'.bufLen → c.valid = c'.valid →
    xs.map Prod.snd = ys.map Prod.snd →
    let r := updateAll b c xs
    let q := updateAll b' c' ys
    r.blocks = q.blocks ∧ r.ctx.cntLo = q.ctx.cntLo ∧ r.ctx.cntHi = q.ctx.cntHi ∧ r.ctx.bufLen = q.ctx.bufLen ∧
      r.ctx.valid = q.ctx.valid

/-- R107: UPDATEs of the chunks of a byte sequence leave and dispatch what one UPDATE of the sequence does. -/
def Obligations.ChunkingIsAssociative : Prop :=
  ∀ (b : Build) (c : Context) (xs : List (Nat × List Byte)) (a : Nat),
    (xs.map Prod.snd).flatten.length < 2 ^ 64 →
    let r := updateAll b c xs
    let q := updateFn b c (xs.map Prod.snd).flatten a
    r.blocks = q.blocks ∧ r.ctx.cntLo = q.ctx.cntLo ∧ r.ctx.cntHi = q.ctx.cntHi ∧ r.ctx.bufLen = q.ctx.bufLen ∧
      r.ctx.valid = q.ctx.valid

/-- R81, R106: from an empty buffer, the blocks dispatched are the 128-byte partition of the whole input history, the
valid bytes its last `|H| mod 128` bytes, and the counter grew by 8 bits a byte modulo 2^128. -/
def Obligations.OrderPreservation : Prop :=
  ∀ (b : Build) (c : Context) (xs : List (Nat × List Byte)), c.bufLen = 0 →
    (∀ x ∈ xs, x.2.length < 2 ^ 64) →
    let r := updateAll b c xs
    let h := (xs.map Prod.snd).flatten
    r.blocks = blocksOf (h.length / 128) h ∧ r.ctx.bufLen.toNat = h.length % 128 ∧
      r.ctx.valid = h.drop (h.length - h.length % 128) ∧
      r.ctx.count = (c.count + 8 * h.length) % 2 ^ 128

/-- R108: from an empty buffer, 128 bytes give one request of one block and leave BUFLEN 0; 129 bytes give one request
of one block, the first 128 bytes, and leave BUFLEN 1. -/
def Obligations.BoundaryExactness : Prop :=
  ∀ (b : Build) (c : Context) (chunk : List Byte) (a : Nat), c.bufLen = 0 →
    (chunk.length = 128 →
      (updateFn b c chunk a).ctx.bufLen = 0 ∧ (updateFn b c chunk a).blocks = [chunk] ∧
        ∃ r, (updateFn b c chunk a).reqs = [r] ∧ r.n = 1) ∧
    (chunk.length = 129 →
      (updateFn b c chunk a).ctx.bufLen = 1 ∧ (updateFn b c chunk a).blocks = [chunk.take 128] ∧
        ∃ r, (updateFn b c chunk a).reqs = [r] ∧ r.n = 1)
end

