-- ==== Sys2Proof/Laws/State.lean ====
section
/-! SUPPORT. What each named update of the state does to each field, so that no proof unfolds a record update. -/

namespace Sys2Proof.Machine

/-! ### `State.raise` -/

@[simp] theorem State.raise_build (s : State) (e : Err) : (s.raise e).build = s.build := rfl
@[simp] theorem State.raise_base (s : State) (e : Err) : (s.raise e).base = s.base := rfl
@[simp] theorem State.raise_srcAddr (s : State) (e : Err) : (s.raise e).srcAddr = s.srcAddr := rfl
@[simp] theorem State.raise_len (s : State) (e : Err) : (s.raise e).len = s.len := rfl
@[simp] theorem State.raise_cntLo (s : State) (e : Err) : (s.raise e).cntLo = s.cntLo := rfl
@[simp] theorem State.raise_cntHi (s : State) (e : Err) : (s.raise e).cntHi = s.cntHi := rfl
@[simp] theorem State.raise_bufLen (s : State) (e : Err) : (s.raise e).bufLen = s.bufLen := rfl
@[simp] theorem State.raise_buf (s : State) (e : Err) : (s.raise e).buf = s.buf := rfl
@[simp] theorem State.raise_errs (s : State) (e : Err) : (s.raise e).errs = s.errs.set e := rfl
@[simp] theorem State.raise_cleared (s : State) (e : Err) : (s.raise e).cleared = s.cleared := rfl
@[simp] theorem State.raise_faultAddr (s : State) (e : Err) : (s.raise e).faultAddr = s.faultAddr := rfl
@[simp] theorem State.raise_phase (s : State) (e : Err) : (s.raise e).phase = s.phase := rfl
@[simp] theorem State.raise_curAddr (s : State) (e : Err) : (s.raise e).curAddr = s.curAddr := rfl
@[simp] theorem State.raise_curLen (s : State) (e : Err) : (s.raise e).curLen = s.curLen := rfl
@[simp] theorem State.raise_history (s : State) (e : Err) : (s.raise e).history = s.history := rfl
@[simp] theorem State.raise_absorbed (s : State) (e : Err) : (s.raise e).absorbed = s.absorbed := rfl
@[simp] theorem State.raise_mem (s : State) (e : Err) : (s.raise e).mem = s.mem := rfl
@[simp] theorem State.raise_raced (s : State) (e : Err) : (s.raise e).raced = s.raced := rfl
@[simp] theorem State.raise_hostProg (s : State) (e : Err) : (s.raise e).hostProg = s.hostProg := rfl
@[simp] theorem State.raise_resp (s : State) (e : Err) : (s.raise e).resp = s.resp := rfl
@[simp] theorem State.raise_sched (s : State) (e : Err) : (s.raise e).sched = s.sched := rfl
@[simp] theorem State.raise_draws (s : State) (e : Err) : (s.raise e).draws = s.draws := rfl

/-! ### `State.respond` -/

@[simp] theorem State.respond_build (s : State) (r : BusResp) : (s.respond r).build = s.build := rfl
@[simp] theorem State.respond_base (s : State) (r : BusResp) : (s.respond r).base = s.base := rfl
@[simp] theorem State.respond_srcAddr (s : State) (r : BusResp) : (s.respond r).srcAddr = s.srcAddr := rfl
@[simp] theorem State.respond_len (s : State) (r : BusResp) : (s.respond r).len = s.len := rfl
@[simp] theorem State.respond_cntLo (s : State) (r : BusResp) : (s.respond r).cntLo = s.cntLo := rfl
@[simp] theorem State.respond_cntHi (s : State) (r : BusResp) : (s.respond r).cntHi = s.cntHi := rfl
@[simp] theorem State.respond_bufLen (s : State) (r : BusResp) : (s.respond r).bufLen = s.bufLen := rfl
@[simp] theorem State.respond_buf (s : State) (r : BusResp) : (s.respond r).buf = s.buf := rfl
@[simp] theorem State.respond_errs (s : State) (r : BusResp) : (s.respond r).errs = s.errs := rfl
@[simp] theorem State.respond_cleared (s : State) (r : BusResp) : (s.respond r).cleared = s.cleared := rfl
@[simp] theorem State.respond_faultAddr (s : State) (r : BusResp) : (s.respond r).faultAddr = s.faultAddr := rfl
@[simp] theorem State.respond_phase (s : State) (r : BusResp) : (s.respond r).phase = s.phase := rfl
@[simp] theorem State.respond_curAddr (s : State) (r : BusResp) : (s.respond r).curAddr = s.curAddr := rfl
@[simp] theorem State.respond_curLen (s : State) (r : BusResp) : (s.respond r).curLen = s.curLen := rfl
@[simp] theorem State.respond_history (s : State) (r : BusResp) : (s.respond r).history = s.history := rfl
@[simp] theorem State.respond_absorbed (s : State) (r : BusResp) : (s.respond r).absorbed = s.absorbed := rfl
@[simp] theorem State.respond_mem (s : State) (r : BusResp) : (s.respond r).mem = s.mem := rfl
@[simp] theorem State.respond_raced (s : State) (r : BusResp) : (s.respond r).raced = s.raced := rfl
@[simp] theorem State.respond_hostProg (s : State) (r : BusResp) : (s.respond r).hostProg = s.hostProg := rfl
@[simp] theorem State.respond_resp (s : State) (r : BusResp) : (s.respond r).resp = some r := rfl
@[simp] theorem State.respond_sched (s : State) (r : BusResp) : (s.respond r).sched = s.sched := rfl
@[simp] theorem State.respond_draws (s : State) (r : BusResp) : (s.respond r).draws = s.draws := rfl

/-! ### `State.finish` -/

@[simp] theorem State.finish_build (s : State) : (s.finish).build = s.build := rfl
@[simp] theorem State.finish_base (s : State) : (s.finish).base = s.base := rfl
@[simp] theorem State.finish_srcAddr (s : State) : (s.finish).srcAddr = s.srcAddr := rfl
@[simp] theorem State.finish_len (s : State) : (s.finish).len = s.len := rfl
@[simp] theorem State.finish_cntLo (s : State) : (s.finish).cntLo = s.cntLo := rfl
@[simp] theorem State.finish_cntHi (s : State) : (s.finish).cntHi = s.cntHi := rfl
@[simp] theorem State.finish_bufLen (s : State) : (s.finish).bufLen = s.bufLen := rfl
@[simp] theorem State.finish_buf (s : State) : (s.finish).buf = s.buf := rfl
@[simp] theorem State.finish_errs (s : State) : (s.finish).errs = s.errs := rfl
@[simp] theorem State.finish_cleared (s : State) : (s.finish).cleared = s.cleared := rfl
@[simp] theorem State.finish_faultAddr (s : State) : (s.finish).faultAddr = s.faultAddr := rfl
@[simp] theorem State.finish_phase (s : State) : (s.finish).phase = .idle := rfl
@[simp] theorem State.finish_curAddr (s : State) : (s.finish).curAddr = s.curAddr := rfl
@[simp] theorem State.finish_curLen (s : State) : (s.finish).curLen = s.curLen := rfl
@[simp] theorem State.finish_history (s : State) : (s.finish).history = s.history := rfl
@[simp] theorem State.finish_absorbed (s : State) : (s.finish).absorbed = s.absorbed := rfl
@[simp] theorem State.finish_mem (s : State) : (s.finish).mem = s.mem := rfl
@[simp] theorem State.finish_raced (s : State) : (s.finish).raced = [] := rfl
@[simp] theorem State.finish_hostProg (s : State) : (s.finish).hostProg = s.hostProg := rfl
@[simp] theorem State.finish_resp (s : State) : (s.finish).resp = s.resp := rfl
@[simp] theorem State.finish_sched (s : State) : (s.finish).sched = s.sched := rfl
@[simp] theorem State.finish_draws (s : State) : (s.finish).draws = s.draws := rfl

/-! ### `State.advance` -/

@[simp] theorem State.advance_build (s : State) (m : Nat) : (s.advance m).build = s.build := rfl
@[simp] theorem State.advance_base (s : State) (m : Nat) : (s.advance m).base = s.base := rfl
@[simp] theorem State.advance_srcAddr (s : State) (m : Nat) : (s.advance m).srcAddr = s.srcAddr := rfl
@[simp] theorem State.advance_len (s : State) (m : Nat) : (s.advance m).len = s.len := rfl
@[simp] theorem State.advance_cntLo (s : State) (m : Nat) : (s.advance m).cntLo = s.cntLo := rfl
@[simp] theorem State.advance_cntHi (s : State) (m : Nat) : (s.advance m).cntHi = s.cntHi := rfl
@[simp] theorem State.advance_bufLen (s : State) (m : Nat) : (s.advance m).bufLen = s.bufLen := rfl
@[simp] theorem State.advance_buf (s : State) (m : Nat) : (s.advance m).buf = s.buf := rfl
@[simp] theorem State.advance_errs (s : State) (m : Nat) : (s.advance m).errs = s.errs := rfl
@[simp] theorem State.advance_cleared (s : State) (m : Nat) : (s.advance m).cleared = s.cleared := rfl
@[simp] theorem State.advance_faultAddr (s : State) (m : Nat) : (s.advance m).faultAddr = s.faultAddr := rfl
@[simp] theorem State.advance_phase (s : State) (m : Nat) : (s.advance m).phase = s.phase := rfl
@[simp] theorem State.advance_curAddr (s : State) (m : Nat) : (s.advance m).curAddr = s.curAddr + BitVec.ofNat 65 m := rfl
@[simp] theorem State.advance_curLen (s : State) (m : Nat) : (s.advance m).curLen = s.curLen - BitVec.ofNat 64 m := rfl
@[simp] theorem State.advance_history (s : State) (m : Nat) : (s.advance m).history = s.history := rfl
@[simp] theorem State.advance_absorbed (s : State) (m : Nat) : (s.advance m).absorbed = s.absorbed := rfl
@[simp] theorem State.advance_mem (s : State) (m : Nat) : (s.advance m).mem = s.mem := rfl
@[simp] theorem State.advance_raced (s : State) (m : Nat) : (s.advance m).raced = s.raced := rfl
@[simp] theorem State.advance_hostProg (s : State) (m : Nat) : (s.advance m).hostProg = s.hostProg := rfl
@[simp] theorem State.advance_resp (s : State) (m : Nat) : (s.advance m).resp = s.resp := rfl
@[simp] theorem State.advance_sched (s : State) (m : Nat) : (s.advance m).sched = s.sched := rfl
@[simp] theorem State.advance_draws (s : State) (m : Nat) : (s.advance m).draws = s.draws := rfl

/-! ### `State.start` -/

@[simp] theorem State.start_build (s : State) (a n : Word) : (s.start a n).build = s.build := rfl
@[simp] theorem State.start_base (s : State) (a n : Word) : (s.start a n).base = s.base := rfl
@[simp] theorem State.start_srcAddr (s : State) (a n : Word) : (s.start a n).srcAddr = s.srcAddr := rfl
@[simp] theorem State.start_len (s : State) (a n : Word) : (s.start a n).len = s.len := rfl
@[simp] theorem State.start_cntLo (s : State) (a n : Word) : (s.start a n).cntLo = s.cntLo := rfl
@[simp] theorem State.start_cntHi (s : State) (a n : Word) : (s.start a n).cntHi = s.cntHi := rfl
@[simp] theorem State.start_bufLen (s : State) (a n : Word) : (s.start a n).bufLen = s.bufLen := rfl
@[simp] theorem State.start_buf (s : State) (a n : Word) : (s.start a n).buf = s.buf := rfl
@[simp] theorem State.start_errs (s : State) (a n : Word) : (s.start a n).errs = s.errs := rfl
@[simp] theorem State.start_cleared (s : State) (a n : Word) : (s.start a n).cleared = s.cleared := rfl
@[simp] theorem State.start_faultAddr (s : State) (a n : Word) : (s.start a n).faultAddr = s.faultAddr := rfl
@[simp] theorem State.start_phase (s : State) (a n : Word) : (s.start a n).phase = .count := rfl
@[simp] theorem State.start_curAddr (s : State) (a n : Word) : (s.start a n).curAddr = a.setWidth 65 := rfl
@[simp] theorem State.start_curLen (s : State) (a n : Word) : (s.start a n).curLen = n := rfl
@[simp] theorem State.start_history (s : State) (a n : Word) : (s.start a n).history = s.history := rfl
@[simp] theorem State.start_absorbed (s : State) (a n : Word) : (s.start a n).absorbed = s.absorbed := rfl
@[simp] theorem State.start_mem (s : State) (a n : Word) : (s.start a n).mem = s.mem := rfl
@[simp] theorem State.start_raced (s : State) (a n : Word) : (s.start a n).raced = s.raced := rfl
@[simp] theorem State.start_hostProg (s : State) (a n : Word) : (s.start a n).hostProg = s.hostProg := rfl
@[simp] theorem State.start_resp (s : State) (a n : Word) : (s.start a n).resp = s.resp := rfl
@[simp] theorem State.start_sched (s : State) (a n : Word) : (s.start a n).sched = s.sched := rfl
@[simp] theorem State.start_draws (s : State) (a n : Word) : (s.start a n).draws = s.draws := rfl

/-! ### `State.issue` -/

@[simp] theorem State.issue_build (s : State) (r : Request) (b : Resume) : (s.issue r b).build = s.build := rfl
@[simp] theorem State.issue_base (s : State) (r : Request) (b : Resume) : (s.issue r b).base = s.base := rfl
@[simp] theorem State.issue_srcAddr (s : State) (r : Request) (b : Resume) : (s.issue r b).srcAddr = s.srcAddr := rfl
@[simp] theorem State.issue_len (s : State) (r : Request) (b : Resume) : (s.issue r b).len = s.len := rfl
@[simp] theorem State.issue_cntLo (s : State) (r : Request) (b : Resume) : (s.issue r b).cntLo = s.cntLo := rfl
@[simp] theorem State.issue_cntHi (s : State) (r : Request) (b : Resume) : (s.issue r b).cntHi = s.cntHi := rfl
@[simp] theorem State.issue_bufLen (s : State) (r : Request) (b : Resume) : (s.issue r b).bufLen = s.bufLen := rfl
@[simp] theorem State.issue_buf (s : State) (r : Request) (b : Resume) : (s.issue r b).buf = s.buf := rfl
@[simp] theorem State.issue_errs (s : State) (r : Request) (b : Resume) : (s.issue r b).errs = s.errs := rfl
@[simp] theorem State.issue_cleared (s : State) (r : Request) (b : Resume) : (s.issue r b).cleared = s.cleared := rfl
@[simp] theorem State.issue_faultAddr (s : State) (r : Request) (b : Resume) : (s.issue r b).faultAddr = s.faultAddr := rfl
@[simp] theorem State.issue_phase (s : State) (r : Request) (b : Resume) : (s.issue r b).phase = .waitCmp r b := rfl
@[simp] theorem State.issue_curAddr (s : State) (r : Request) (b : Resume) : (s.issue r b).curAddr = s.curAddr := rfl
@[simp] theorem State.issue_curLen (s : State) (r : Request) (b : Resume) : (s.issue r b).curLen = s.curLen := rfl
@[simp] theorem State.issue_history (s : State) (r : Request) (b : Resume) : (s.issue r b).history = s.history ++ [r] := rfl
@[simp] theorem State.issue_absorbed (s : State) (r : Request) (b : Resume) : (s.issue r b).absorbed = s.absorbed := rfl
@[simp] theorem State.issue_mem (s : State) (r : Request) (b : Resume) : (s.issue r b).mem = s.mem := rfl
@[simp] theorem State.issue_raced (s : State) (r : Request) (b : Resume) : (s.issue r b).raced = s.raced := rfl
@[simp] theorem State.issue_hostProg (s : State) (r : Request) (b : Resume) : (s.issue r b).hostProg = s.hostProg := rfl
@[simp] theorem State.issue_resp (s : State) (r : Request) (b : Resume) : (s.issue r b).resp = s.resp := rfl
@[simp] theorem State.issue_sched (s : State) (r : Request) (b : Resume) : (s.issue r b).sched = s.sched := rfl
@[simp] theorem State.issue_draws (s : State) (r : Request) (b : Resume) : (s.issue r b).draws = s.draws := rfl

/-! ### `State.tick` -/

@[simp] theorem State.tick_build (s : State) (rest : List Agent) : (s.tick rest).build = s.build := rfl
@[simp] theorem State.tick_base (s : State) (rest : List Agent) : (s.tick rest).base = s.base := rfl
@[simp] theorem State.tick_srcAddr (s : State) (rest : List Agent) : (s.tick rest).srcAddr = s.srcAddr := rfl
@[simp] theorem State.tick_len (s : State) (rest : List Agent) : (s.tick rest).len = s.len := rfl
@[simp] theorem State.tick_cntLo (s : State) (rest : List Agent) : (s.tick rest).cntLo = s.cntLo := rfl
@[simp] theorem State.tick_cntHi (s : State) (rest : List Agent) : (s.tick rest).cntHi = s.cntHi := rfl
@[simp] theorem State.tick_bufLen (s : State) (rest : List Agent) : (s.tick rest).bufLen = s.bufLen := rfl
@[simp] theorem State.tick_buf (s : State) (rest : List Agent) : (s.tick rest).buf = s.buf := rfl
@[simp] theorem State.tick_errs (s : State) (rest : List Agent) : (s.tick rest).errs = s.errs := rfl
@[simp] theorem State.tick_cleared (s : State) (rest : List Agent) : (s.tick rest).cleared = s.cleared := rfl
@[simp] theorem State.tick_faultAddr (s : State) (rest : List Agent) : (s.tick rest).faultAddr = s.faultAddr := rfl
@[simp] theorem State.tick_phase (s : State) (rest : List Agent) : (s.tick rest).phase = s.phase := rfl
@[simp] theorem State.tick_curAddr (s : State) (rest : List Agent) : (s.tick rest).curAddr = s.curAddr := rfl
@[simp] theorem State.tick_curLen (s : State) (rest : List Agent) : (s.tick rest).curLen = s.curLen := rfl
@[simp] theorem State.tick_history (s : State) (rest : List Agent) : (s.tick rest).history = s.history := rfl
@[simp] theorem State.tick_absorbed (s : State) (rest : List Agent) : (s.tick rest).absorbed = s.absorbed := rfl
@[simp] theorem State.tick_mem (s : State) (rest : List Agent) : (s.tick rest).mem = s.mem := rfl
@[simp] theorem State.tick_raced (s : State) (rest : List Agent) : (s.tick rest).raced = s.raced := rfl
@[simp] theorem State.tick_hostProg (s : State) (rest : List Agent) : (s.tick rest).hostProg = s.hostProg := rfl
@[simp] theorem State.tick_resp (s : State) (rest : List Agent) : (s.tick rest).resp = s.resp := rfl
@[simp] theorem State.tick_sched (s : State) (rest : List Agent) : (s.tick rest).sched = rest := rfl
@[simp] theorem State.tick_draws (s : State) (rest : List Agent) : (s.tick rest).draws = s.draws + 1 := rfl

/-! ### `State.writeStatus` -/

@[simp] theorem State.writeStatus_build (s : State) (v : Word32) : (s.writeStatus v).build = s.build := rfl
@[simp] theorem State.writeStatus_base (s : State) (v : Word32) : (s.writeStatus v).base = s.base := rfl
@[simp] theorem State.writeStatus_srcAddr (s : State) (v : Word32) : (s.writeStatus v).srcAddr = s.srcAddr := rfl
@[simp] theorem State.writeStatus_len (s : State) (v : Word32) : (s.writeStatus v).len = s.len := rfl
@[simp] theorem State.writeStatus_cntLo (s : State) (v : Word32) : (s.writeStatus v).cntLo = s.cntLo := rfl
@[simp] theorem State.writeStatus_cntHi (s : State) (v : Word32) : (s.writeStatus v).cntHi = s.cntHi := rfl
@[simp] theorem State.writeStatus_bufLen (s : State) (v : Word32) : (s.writeStatus v).bufLen = s.bufLen := rfl
@[simp] theorem State.writeStatus_buf (s : State) (v : Word32) : (s.writeStatus v).buf = s.buf := rfl
@[simp] theorem State.writeStatus_errs (s : State) (v : Word32) : (s.writeStatus v).errs = s.errs.clearBits v := rfl
@[simp] theorem State.writeStatus_cleared (s : State) (v : Word32) : (s.writeStatus v).cleared = s.cleared.recordCleared s.errs v := rfl
@[simp] theorem State.writeStatus_faultAddr (s : State) (v : Word32) : (s.writeStatus v).faultAddr = s.faultAddr := rfl
@[simp] theorem State.writeStatus_phase (s : State) (v : Word32) : (s.writeStatus v).phase = s.phase := rfl
@[simp] theorem State.writeStatus_curAddr (s : State) (v : Word32) : (s.writeStatus v).curAddr = s.curAddr := rfl
@[simp] theorem State.writeStatus_curLen (s : State) (v : Word32) : (s.writeStatus v).curLen = s.curLen := rfl
@[simp] theorem State.writeStatus_history (s : State) (v : Word32) : (s.writeStatus v).history = s.history := rfl
@[simp] theorem State.writeStatus_absorbed (s : State) (v : Word32) : (s.writeStatus v).absorbed = s.absorbed := rfl
@[simp] theorem State.writeStatus_mem (s : State) (v : Word32) : (s.writeStatus v).mem = s.mem := rfl
@[simp] theorem State.writeStatus_raced (s : State) (v : Word32) : (s.writeStatus v).raced = s.raced := rfl
@[simp] theorem State.writeStatus_hostProg (s : State) (v : Word32) : (s.writeStatus v).hostProg = s.hostProg := rfl
@[simp] theorem State.writeStatus_resp (s : State) (v : Word32) : (s.writeStatus v).resp = s.resp := rfl
@[simp] theorem State.writeStatus_sched (s : State) (v : Word32) : (s.writeStatus v).sched = s.sched := rfl
@[simp] theorem State.writeStatus_draws (s : State) (v : Word32) : (s.writeStatus v).draws = s.draws := rfl

/-! ### `State.clearContext` -/

@[simp] theorem State.clearContext_build (s : State) : (s.clearContext).build = s.build := rfl
@[simp] theorem State.clearContext_base (s : State) : (s.clearContext).base = s.base := rfl
@[simp] theorem State.clearContext_srcAddr (s : State) : (s.clearContext).srcAddr = s.srcAddr := rfl
@[simp] theorem State.clearContext_len (s : State) : (s.clearContext).len = s.len := rfl
@[simp] theorem State.clearContext_cntLo (s : State) : (s.clearContext).cntLo = 0 := rfl
@[simp] theorem State.clearContext_cntHi (s : State) : (s.clearContext).cntHi = 0 := rfl
@[simp] theorem State.clearContext_bufLen (s : State) : (s.clearContext).bufLen = 0 := rfl
@[simp] theorem State.clearContext_buf (s : State) : (s.clearContext).buf = s.buf := rfl
@[simp] theorem State.clearContext_errs (s : State) : (s.clearContext).errs = s.errs := rfl
@[simp] theorem State.clearContext_cleared (s : State) : (s.clearContext).cleared = s.cleared := rfl
@[simp] theorem State.clearContext_faultAddr (s : State) : (s.clearContext).faultAddr = s.faultAddr := rfl
@[simp] theorem State.clearContext_phase (s : State) : (s.clearContext).phase = s.phase := rfl
@[simp] theorem State.clearContext_curAddr (s : State) : (s.clearContext).curAddr = s.curAddr := rfl
@[simp] theorem State.clearContext_curLen (s : State) : (s.clearContext).curLen = s.curLen := rfl
@[simp] theorem State.clearContext_history (s : State) : (s.clearContext).history = s.history := rfl
@[simp] theorem State.clearContext_absorbed (s : State) : (s.clearContext).absorbed = s.absorbed := rfl
@[simp] theorem State.clearContext_mem (s : State) : (s.clearContext).mem = s.mem := rfl
@[simp] theorem State.clearContext_raced (s : State) : (s.clearContext).raced = s.raced := rfl
@[simp] theorem State.clearContext_hostProg (s : State) : (s.clearContext).hostProg = s.hostProg := rfl
@[simp] theorem State.clearContext_resp (s : State) : (s.clearContext).resp = s.resp := rfl
@[simp] theorem State.clearContext_sched (s : State) : (s.clearContext).sched = s.sched := rfl
@[simp] theorem State.clearContext_draws (s : State) : (s.clearContext).draws = s.draws := rfl

/-! ### `State.loseContext` -/

@[simp] theorem State.loseContext_build (s : State) : (s.loseContext).build = s.build := rfl
@[simp] theorem State.loseContext_base (s : State) : (s.loseContext).base = s.base := rfl
@[simp] theorem State.loseContext_srcAddr (s : State) : (s.loseContext).srcAddr = s.srcAddr := rfl
@[simp] theorem State.loseContext_len (s : State) : (s.loseContext).len = s.len := rfl
@[simp] theorem State.loseContext_cntLo (s : State) : (s.loseContext).cntLo = Config.freeCntLo s.draws := rfl
@[simp] theorem State.loseContext_cntHi (s : State) : (s.loseContext).cntHi = Config.freeCntHi s.draws := rfl
@[simp] theorem State.loseContext_bufLen (s : State) : (s.loseContext).bufLen = Config.freeBufLen s.draws := rfl
@[simp] theorem State.loseContext_buf (s : State) : (s.loseContext).buf = freeBuffer (Config.freeErrBuf s.draws) := rfl
@[simp] theorem State.loseContext_errs (s : State) : (s.loseContext).errs = s.errs := rfl
@[simp] theorem State.loseContext_cleared (s : State) : (s.loseContext).cleared = s.cleared := rfl
@[simp] theorem State.loseContext_faultAddr (s : State) : (s.loseContext).faultAddr = s.faultAddr := rfl
@[simp] theorem State.loseContext_phase (s : State) : (s.loseContext).phase = s.phase := rfl
@[simp] theorem State.loseContext_curAddr (s : State) : (s.loseContext).curAddr = s.curAddr := rfl
@[simp] theorem State.loseContext_curLen (s : State) : (s.loseContext).curLen = s.curLen := rfl
@[simp] theorem State.loseContext_history (s : State) : (s.loseContext).history = s.history := rfl
@[simp] theorem State.loseContext_absorbed (s : State) : (s.loseContext).absorbed = s.absorbed := rfl
@[simp] theorem State.loseContext_mem (s : State) : (s.loseContext).mem = s.mem := rfl
@[simp] theorem State.loseContext_raced (s : State) : (s.loseContext).raced = s.raced := rfl
@[simp] theorem State.loseContext_hostProg (s : State) : (s.loseContext).hostProg = s.hostProg := rfl
@[simp] theorem State.loseContext_resp (s : State) : (s.loseContext).resp = s.resp := rfl
@[simp] theorem State.loseContext_sched (s : State) : (s.loseContext).sched = s.sched := rfl
@[simp] theorem State.loseContext_draws (s : State) : (s.loseContext).draws = s.draws := rfl

/-! ### `State.abort` -/

@[simp] theorem State.abort_build (s : State) (x : Nat) : (s.abort x).build = s.build := rfl
@[simp] theorem State.abort_base (s : State) (x : Nat) : (s.abort x).base = s.base := rfl
@[simp] theorem State.abort_srcAddr (s : State) (x : Nat) : (s.abort x).srcAddr = s.srcAddr := rfl
@[simp] theorem State.abort_len (s : State) (x : Nat) : (s.abort x).len = s.len := rfl
@[simp] theorem State.abort_cntLo (s : State) (x : Nat) : (s.abort x).cntLo = Config.freeCntLo s.draws := rfl
@[simp] theorem State.abort_cntHi (s : State) (x : Nat) : (s.abort x).cntHi = Config.freeCntHi s.draws := rfl
@[simp] theorem State.abort_bufLen (s : State) (x : Nat) : (s.abort x).bufLen = Config.freeBufLen s.draws := rfl
@[simp] theorem State.abort_buf (s : State) (x : Nat) : (s.abort x).buf = freeBuffer (Config.freeErrBuf s.draws) := rfl
@[simp] theorem State.abort_errs (s : State) (x : Nat) : (s.abort x).errs = s.errs.set .bus := rfl
@[simp] theorem State.abort_cleared (s : State) (x : Nat) : (s.abort x).cleared = s.cleared := rfl
@[simp] theorem State.abort_faultAddr (s : State) (x : Nat) : (s.abort x).faultAddr = BitVec.ofNat 64 x := rfl
@[simp] theorem State.abort_phase (s : State) (x : Nat) : (s.abort x).phase = .idle := rfl
@[simp] theorem State.abort_curAddr (s : State) (x : Nat) : (s.abort x).curAddr = s.curAddr := rfl
@[simp] theorem State.abort_curLen (s : State) (x : Nat) : (s.abort x).curLen = s.curLen := rfl
@[simp] theorem State.abort_history (s : State) (x : Nat) : (s.abort x).history = s.history := rfl
@[simp] theorem State.abort_absorbed (s : State) (x : Nat) : (s.abort x).absorbed = s.absorbed := rfl
@[simp] theorem State.abort_mem (s : State) (x : Nat) : (s.abort x).mem = s.mem := rfl
@[simp] theorem State.abort_raced (s : State) (x : Nat) : (s.abort x).raced = [] := rfl
@[simp] theorem State.abort_hostProg (s : State) (x : Nat) : (s.abort x).hostProg = s.hostProg := rfl
@[simp] theorem State.abort_resp (s : State) (x : Nat) : (s.abort x).resp = s.resp := rfl
@[simp] theorem State.abort_sched (s : State) (x : Nat) : (s.abort x).sched = s.sched := rfl
@[simp] theorem State.abort_draws (s : State) (x : Nat) : (s.abort x).draws = s.draws := rfl

/-! ### `State.resetHbbm` -/

@[simp] theorem State.resetHbbm_build (s : State) : (s.resetHbbm).build = s.build := rfl
@[simp] theorem State.resetHbbm_base (s : State) : (s.resetHbbm).base = s.base := rfl
@[simp] theorem State.resetHbbm_srcAddr (s : State) : (s.resetHbbm).srcAddr = 0 := rfl
@[simp] theorem State.resetHbbm_len (s : State) : (s.resetHbbm).len = 0 := rfl
@[simp] theorem State.resetHbbm_cntLo (s : State) : (s.resetHbbm).cntLo = 0 := rfl
@[simp] theorem State.resetHbbm_cntHi (s : State) : (s.resetHbbm).cntHi = 0 := rfl
@[simp] theorem State.resetHbbm_bufLen (s : State) : (s.resetHbbm).bufLen = 0 := rfl
@[simp] theorem State.resetHbbm_buf (s : State) : (s.resetHbbm).buf = freeBuffer (Config.freeResetBuf s.draws) := rfl
@[simp] theorem State.resetHbbm_errs (s : State) : (s.resetHbbm).errs = Errors.none := rfl
@[simp] theorem State.resetHbbm_cleared (s : State) : (s.resetHbbm).cleared = Errors.none := rfl
@[simp] theorem State.resetHbbm_faultAddr (s : State) : (s.resetHbbm).faultAddr = 0 := rfl
@[simp] theorem State.resetHbbm_phase (s : State) : (s.resetHbbm).phase = .idle := rfl
@[simp] theorem State.resetHbbm_curAddr (s : State) : (s.resetHbbm).curAddr = Config.freeCurAddr s.draws := rfl
@[simp] theorem State.resetHbbm_curLen (s : State) : (s.resetHbbm).curLen = Config.freeCurLen s.draws := rfl
@[simp] theorem State.resetHbbm_history (s : State) : (s.resetHbbm).history = [] := rfl
@[simp] theorem State.resetHbbm_absorbed (s : State) : (s.resetHbbm).absorbed = [] := rfl
@[simp] theorem State.resetHbbm_mem (s : State) : (s.resetHbbm).mem = s.mem := rfl
@[simp] theorem State.resetHbbm_raced (s : State) : (s.resetHbbm).raced = [] := rfl
@[simp] theorem State.resetHbbm_hostProg (s : State) : (s.resetHbbm).hostProg = s.hostProg := rfl
@[simp] theorem State.resetHbbm_resp (s : State) : (s.resetHbbm).resp = s.resp := rfl
@[simp] theorem State.resetHbbm_sched (s : State) : (s.resetHbbm).sched = s.sched := rfl
@[simp] theorem State.resetHbbm_draws (s : State) : (s.resetHbbm).draws = s.draws := rfl

/-! ### BUSY -/

/-- R33: BUSY is 0 exactly in IDLE. -/
theorem State.busy_eq_false_iff (s : State) : s.busy = false ↔ s.phase = .idle := by
  unfold State.busy; cases s.phase <;> simp

/-- R33: BUSY is 1 exactly outside IDLE. -/
theorem State.busy_eq_true_iff (s : State) : s.busy = true ↔ s.phase ≠ .idle := by
  unfold State.busy; cases s.phase <;> simp

@[simp] theorem State.raise_busy (s : State) (e : Err) : (s.raise e).busy = s.busy := rfl
@[simp] theorem State.respond_busy (s : State) (r : BusResp) : (s.respond r).busy = s.busy := rfl
@[simp] theorem State.finish_busy (s : State) : s.finish.busy = false := rfl
@[simp] theorem State.advance_busy (s : State) (m : Nat) : (s.advance m).busy = s.busy := rfl
@[simp] theorem State.start_busy (s : State) (a n : Word) : (s.start a n).busy = true := rfl
@[simp] theorem State.issue_busy (s : State) (r : Request) (b : Resume) : (s.issue r b).busy = true := rfl
@[simp] theorem State.tick_busy (s : State) (rest : List Agent) : (s.tick rest).busy = s.busy := rfl
@[simp] theorem State.writeStatus_busy (s : State) (v : Word32) : (s.writeStatus v).busy = s.busy := rfl
@[simp] theorem State.clearContext_busy (s : State) : s.clearContext.busy = s.busy := rfl
@[simp] theorem State.abort_busy (s : State) (x : Nat) : (s.abort x).busy = false := rfl
@[simp] theorem State.resetHbbm_busy (s : State) : s.resetHbbm.busy = false := rfl

end Sys2Proof.Machine
end

