-- ==== Sys2Proof/Laws/Ops.lean ====
section
/-! SUPPORT. Once for each shared operation, everything it can do. -/

namespace Sys2Proof.Machine

/-! ### Reading host data memory -/

/-- A read of a byte returns an old value kept for its address, or what memory holds. -/
theorem State.busRead_cases (s : State) (a : Nat) :
    (∃ old ∈ oldValues s.raced a, s.busRead a = some old) ∨ s.busRead a = Memory.read s.mem a := by
  unfold State.busRead
  split
  · rename_i old h
    exact .inl ⟨old, List.mem_of_getElem? h, rfl⟩
  · exact .inr rfl

/-- Without a race a read of a byte returns what memory holds. -/
theorem State.busRead_quiet {s : State} (h : s.raced = []) (a : Nat) : s.busRead a = Memory.read s.mem a := by
  simp [State.busRead, oldValues, h]

/-- A read of `n` bytes that succeeds returns each byte of its range. -/
theorem State.memRead_bytes {s : State} {a n : Nat} {bs : List Byte} (h : s.memRead a n = .bytes bs) :
    bs.length = n ∧ ∀ i (hi : i < bs.length), s.busRead (a + i) = some bs[i] := by
  induction n generalizing a bs with
  | zero => simp [State.memRead] at h; subst h; simp
  | succ n ih =>
    simp only [State.memRead] at h
    split at h
    · cases h
    · rename_i b hb
      split at h
      · rename_i cs hc
        cases h
        obtain ⟨hl, hr⟩ := ih hc
        refine ⟨by simp [hl], fun i hi => ?_⟩
        cases i with
        | zero => simpa using hb
        | succ i =>
          have := hr i (by simpa using hi)
          simpa [Nat.add_comm 1 i, Nat.add_assoc, Nat.add_left_comm] using this
      · cases h

/-- A read of `n` bytes that fails names the first byte of its range whose read failed. -/
theorem State.memRead_busError {s : State} {a n x : Nat} (h : s.memRead a n = .busError x) :
    ∃ k < n, x = a + k ∧ s.busRead x = none ∧ ∀ j < k, (s.busRead (a + j)).isSome := by
  induction n generalizing a with
  | zero => simp [State.memRead] at h
  | succ n ih =>
    simp only [State.memRead] at h
    split at h
    · rename_i hb
      cases h
      exact ⟨0, by omega, rfl, hb, by omega⟩
    · rename_i b hb
      split at h
      · cases h
      · rename_i y hy
        cases h
        obtain ⟨k, hk, e, hn, hj⟩ := ih hy
        refine ⟨k + 1, by omega, by omega, hn, fun j hjk => ?_⟩
        cases j with
        | zero => simp [hb]
        | succ j =>
          have := hj j (by omega)
          rwa [Nat.add_assoc, Nat.add_comm 1 j] at this

/-- A read of bytes that can all be read returns them. -/
theorem State.memRead_of_busRead {s : State} {a : Nat} {bs : List Byte}
    (h : ∀ i (hi : i < bs.length), s.busRead (a + i) = some bs[i]) : s.memRead a bs.length = .bytes bs := by
  induction bs generalizing a with
  | nil => rfl
  | cons b bs ih =>
    have h0 := h 0 (by simp)
    have ht : s.memRead (a + 1) bs.length = .bytes bs := ih fun i hi => by
      have := h (i + 1) (by simpa using hi)
      simpa [Nat.add_assoc, Nat.add_comm 1 i] using this
    simp only [List.length_cons, State.memRead]
    simp only [Nat.add_zero, List.getElem_cons_zero] at h0
    rw [h0, ht]

/-! ### BUF -/

/-- `bufWrite` writes exactly the bytes `BUF[off .. off + |bs|)`. -/
theorem bufWrite_getElem (buf : Vector Byte 128) (off : Nat) (bs : List Byte) (k : Nat) (hk : k < 128) :
    (bufWrite buf off bs)[k] = if off ≤ k ∧ k < off + bs.length then bs.getD (k - off) 0 else buf[k] := by
  induction bs generalizing buf off with
  | nil => rw [if_neg (by simp)]; rfl
  | cons b bs ih =>
    rw [bufWrite, ih, List.length_cons]
    by_cases h1 : off + 1 ≤ k ∧ k < off + 1 + bs.length
    · have h3 : k - off = (k - (off + 1)) + 1 := by omega
      rw [if_pos h1, if_pos (by omega), h3, List.getD_cons_succ]
    · rw [if_neg h1]
      by_cases h0 : off < 128
      · rw [dif_pos h0, Vector.getElem_set]
        by_cases h2 : off = k
        · rw [if_pos h2, if_pos (by omega), h2, Nat.sub_self, List.getD_cons_zero]
        · rw [if_neg h2, if_neg (by omega)]
      · rw [dif_neg h0, if_neg (by omega)]

/-- Byte `k` of a buffer of free values. -/
theorem freeBuffer_getElem (f : Nat → Byte) (k : Nat) (hk : k < 128) : (freeBuffer f)[k] = f k := by
  unfold freeBuffer
  rw [Vector.getElem_ofFn]

/-! ### The Engine's copy and the Compressor's acknowledgement -/

/-- A copy either writes the bytes it read and goes on, or aborts at the first byte that could not be read. -/
theorem State.copyIn_cases (s : State) (off n : Nat) (after : State → State) :
    (∃ bs, s.memRead s.curAddr.toNat n = .bytes bs ∧ s.copyIn off n after = after { s with buf := bufWrite s.buf off bs }) ∨
      ∃ x, s.memRead s.curAddr.toNat n = .busError x ∧ s.copyIn off n after = s.abort x := by
  unfold State.copyIn
  split
  · rename_i bs h
    exact .inl ⟨bs, h, rfl⟩
  · rename_i x h
    exact .inr ⟨x, h, rfl⟩

/-- Every block of `blocksOf k` has 128 bytes when there are enough bytes. -/
theorem blocksOf_length {k : Nat} {bs : List Byte} (h : 128 * k ≤ bs.length) :
    ∀ bl ∈ blocksOf k bs, bl.length = 128 := by
  induction k generalizing bs with
  | zero => simp [blocksOf]
  | succ k ih =>
    intro bl hb
    simp only [blocksOf, List.mem_cons] at hb
    rcases hb with rfl | hb
    · simp; omega
    · exact ih (by simp; omega) bl hb

/-- A turn of the Compressor absorbs the outstanding request's blocks and resumes the Engine, or does nothing. -/
theorem acknowledge_cases (s : State) :
    (∃ r back bs, s.phase = .waitCmp r back ∧ s.requestBlocks r = some bs ∧
        acknowledge s = { s with absorbed := s.absorbed ++ bs }.resumeAfter r back) ∨
      acknowledge s = s := by
  unfold acknowledge
  split
  · rename_i r back h
    split
    · rename_i bs hb
      exact .inl ⟨r, back, bs, h, hb, rfl⟩
    · exact .inr rfl
  · exact .inr rfl

end Sys2Proof.Machine
end

