-- ==== Sys2Proof/Laws/Engine.lean ====
section
/-! SUPPORT. Inversion of the Engine's step, of a command and of a turn of an agent: everything each can do. -/

namespace Sys2Proof.Machine

/-- A copy whose read fails aborts. -/
theorem State.copyIn_busError {s : State} {off n x : Nat} {f : State → State}
    (h : s.memRead s.curAddr.toNat n = .busError x) : s.copyIn off n f = s.abort x := by simp [State.copyIn, h]
/-- A copy whose read succeeds writes the bytes and goes on. -/
theorem State.copyIn_bytes {s : State} {off n : Nat} {bs : List Byte} {f : State → State}
    (h : s.memRead s.curAddr.toNat n = .bytes bs) :
    s.copyIn off n f = f { s with buf := bufWrite s.buf off bs } := by simp [State.copyIn, h]

/-- A step of the Engine is one of these: nothing in IDLE and WAIT_CMP, the counter step, the drain of an empty buffer,
an abort at a failed read, the partial drain, the full drain, the end of the bulk loop, a copied block, a direct
request, an empty stash, a stash. -/
theorem engineStep_cases (s : State) :
    (engineStep s = s ∧ (s.phase = .idle ∨ ∃ r b, s.phase = .waitCmp r b)) ∨
    (s.phase = .count ∧ engineStep s = engineCount s) ∨
    (s.phase = .drain ∧ s.bufLen = 0 ∧ engineStep s = { s with phase := .bulk }) ∨
    (∃ x, s.memRead s.curAddr.toNat (engineReads s) = .busError x ∧ engineStep s = s.abort x) ∨
    (∃ bs, s.phase = .drain ∧ s.bufLen ≠ 0 ∧ s.curLen.toNat < 128 - s.bufLen.toNat ∧
      engineReads s = s.curLen.toNat ∧ s.memRead s.curAddr.toNat (engineReads s) = .bytes bs ∧
      engineStep s = { s with
        buf := bufWrite s.buf s.bufLen.toNat bs
        bufLen := BitVec.ofNat 7 (s.bufLen.toNat + s.curLen.toNat) }.finish) ∨
    (∃ bs, s.phase = .drain ∧ s.bufLen ≠ 0 ∧ 128 - s.bufLen.toNat ≤ s.curLen.toNat ∧
      engineReads s = 128 - s.bufLen.toNat ∧ s.memRead s.curAddr.toNat (engineReads s) = .bytes bs ∧
      engineStep s = ({ s with buf := bufWrite s.buf s.bufLen.toNat bs, bufLen := 0 }.advance
        (128 - s.bufLen.toNat)).issue bufRequest .drain) ∨
    (s.phase = .bulk ∧ s.curLen.toNat < 128 ∧ engineStep s = { s with phase := .stash }) ∨
    (∃ bs, s.phase = .bulk ∧ 128 ≤ s.curLen.toNat ∧ copyPath s.build s.curAddr.toNat = true ∧ engineReads s = 128 ∧
      s.memRead s.curAddr.toNat (engineReads s) = .bytes bs ∧
      engineStep s = { s with buf := bufWrite s.buf 0 bs }.issue bufRequest .bulk) ∨
    (s.phase = .bulk ∧ 128 ≤ s.curLen.toNat ∧ copyPath s.build s.curAddr.toNat = false ∧
      engineStep s = s.issue (bulkRequest s) .bulk) ∨
    (s.phase = .stash ∧ s.curLen = 0 ∧ engineStep s = s.finish) ∨
    (∃ bs, s.phase = .stash ∧ s.curLen ≠ 0 ∧ engineReads s = s.curLen.toNat ∧
      s.memRead s.curAddr.toNat (engineReads s) = .bytes bs ∧
      engineStep s = { s with buf := bufWrite s.buf 0 bs, bufLen := BitVec.ofNat 7 s.curLen.toNat }.finish) := by
  cases hp : s.phase with
  | idle => left; simp [engineStep, hp]
  | waitCmp r b => left; simp [engineStep, hp]
  | count => right; left; simp [engineStep, hp]
  | drain =>
    by_cases hb : s.bufLen = 0
    · right; right; left; simp [engineStep, hp, engineDrain, hb]
    · by_cases hl : s.curLen.toNat < 128 - s.bufLen.toNat
      · have er : engineReads s = s.curLen.toNat := by simp only [engineReads, hp, if_neg hb]; omega
        cases hm : s.memRead s.curAddr.toNat (engineReads s) with
        | bytes bs =>
          right; right; right; right; left
          refine ⟨bs, rfl, hb, hl, er, rfl, ?_⟩
          rw [er] at hm
          simp only [engineStep, hp, engineDrain, hb, hl, if_true, if_false, drainPartial, State.copyIn_bytes hm]
        | busError x =>
          right; right; right; left
          refine ⟨x, rfl, ?_⟩
          rw [er] at hm
          simp only [engineStep, hp, engineDrain, hb, hl, if_true, if_false, drainPartial, State.copyIn_busError hm]
      · have er : engineReads s = 128 - s.bufLen.toNat := by simp only [engineReads, hp, if_neg hb]; omega
        cases hm : s.memRead s.curAddr.toNat (engineReads s) with
        | bytes bs =>
          right; right; right; right; right; left
          refine ⟨bs, rfl, hb, by omega, er, rfl, ?_⟩
          rw [er] at hm
          simp only [engineStep, hp, engineDrain, hb, hl, if_false, drainFull, State.copyIn_bytes hm]
        | busError x =>
          right; right; right; left
          refine ⟨x, rfl, ?_⟩
          rw [er] at hm
          simp only [engineStep, hp, engineDrain, hb, hl, if_false, drainFull, State.copyIn_busError hm]
  | bulk =>
    by_cases hl : s.curLen.toNat < 128
    · right; right; right; right; right; right; left
      simp [engineStep, hp, engineBulk, hl]
    · have hl' : 128 ≤ s.curLen.toNat := by omega
      cases hc : copyPath s.build s.curAddr.toNat with
      | false =>
        right; right; right; right; right; right; right; right; left
        simp [engineStep, hp, engineBulk, hl', hc, bulkDirect]
      | true =>
        have er : engineReads s = 128 := by simp [engineReads, hp, hl', hc]
        cases hm : s.memRead s.curAddr.toNat (engineReads s) with
        | bytes bs =>
          right; right; right; right; right; right; right; left
          refine ⟨bs, rfl, hl', rfl, er, rfl, ?_⟩
          rw [er] at hm
          simp only [engineStep, hp, engineBulk, hl', hc, if_true, bulkCopy, State.copyIn_bytes hm]
        | busError x =>
          right; right; right; left
          refine ⟨x, rfl, ?_⟩
          rw [er] at hm
          simp only [engineStep, hp, engineBulk, hl', hc, if_true, bulkCopy, State.copyIn_busError hm]
  | stash =>
    by_cases hz : s.curLen = 0
    · right; right; right; right; right; right; right; right; right; left
      simp [engineStep, hp, engineStash, hz]
    · have er : engineReads s = s.curLen.toNat := by simp [engineReads, hp]
      cases hm : s.memRead s.curAddr.toNat (engineReads s) with
      | bytes bs =>
        right; right; right; right; right; right; right; right; right; right
        refine ⟨bs, rfl, hz, er, rfl, ?_⟩
        rw [er] at hm
        simp only [engineStep, hp, engineStash, hz, if_false, State.copyIn_bytes hm]
      | busError x =>
        right; right; right; left
        refine ⟨x, rfl, ?_⟩
        rw [er] at hm
        simp only [engineStep, hp, engineStash, hz, if_false, State.copyIn_busError hm]

/-- A command at acceptance: dropped while BUSY, no effect, started, rejected, or the context cleared. -/
theorem exec_cases (i : Instr) (s : State) :
    (s.busy = true ∧ exec i s = .next (s.raise .busy)) ∨
    (i = .update ∧ s.busy = false ∧ s.len = 0 ∧ exec i s = .next s) ∨
    (i = .update ∧ s.busy = false ∧ s.len ≠ 0 ∧ s.srcAddr.toNat + s.len.toNat ≤ addressLimit ∧
      exec i s = .next (s.start s.srcAddr s.len)) ∨
    (i = .update ∧ s.busy = false ∧ s.len ≠ 0 ∧ addressLimit < s.srcAddr.toNat + s.len.toNat ∧
      exec i s = .next (s.raise .range)) ∨
    (i = .clear ∧ s.busy = false ∧ exec i s = .next s.clearContext) := by
  cases hb : s.busy
  · cases i
    · by_cases hl : s.len = 0#64
      · simp [exec, execUpdate, hb, hl]
      · by_cases hr : s.srcAddr.toNat + s.len.toNat ≤ addressLimit
        · simp [exec, execUpdate, hb, hl, inRange, hr]
        · simp [exec, execUpdate, hb, hl, inRange, hr, Nat.lt_of_not_le hr]
    · simp [exec, execClear, hb]
  · cases i <;> simp [exec, execUpdate, execClear, hb]

/-- A step is one turn of one agent: the schedule's first, when there is one. -/
theorem step_eq_agentStep (s : State) :
    step s = agentStep (s.sched.head?.getD (Config.freeAgent s.draws)) (s.tick s.sched.tail) := by
  unfold step
  split
  · rename_i a rest h
    simp [h]
  · rename_i h
    simp [h]

/-- A run of `k + 1` steps that answers a state is a step and a run of `k` steps. -/
theorem run_succ {k : Nat} {s t : State} :
    Host.Core.run core (k + 1) s = .next t ↔ ∃ u, step s = .next u ∧ Host.Core.run core k u = .next t := by
  cases hs : step s with
  | next u =>
    have h : Host.Core.run core (k + 1) s = Host.Core.run core k u := by
      simp only [Host.Core.run, show core.step s = .next u from hs]
    rw [h]
    exact ⟨fun e => ⟨u, rfl, e⟩, fun ⟨v, e, h⟩ => by cases e; exact h⟩
  | fault r =>
    have h : Host.Core.run core (k + 1) s = .fault r := by
      simp only [Host.Core.run, show core.step s = .fault r from hs]
    rw [h]
    simp
  | refused r =>
    have h : Host.Core.run core (k + 1) s = .refused r := by
      simp only [Host.Core.run, show core.step s = .refused r from hs]
    rw [h]
    simp

end Sys2Proof.Machine
end

