-- ==== Sys2Proof/Laws/Host.lean ====
section
/-! SUPPORT. Inversion of a host access and of a turn of the Host: everything each can do. -/

namespace Sys2Proof.Machine

/-! ### The window on the host bus -/

/-- R43: BASE is 256 times its upper 56 bits. -/
theorem State.baseAddress_toNat (s : State) : s.baseAddress.toNat = 256 * s.base.toNat := by
  have h : (0#8).toNat < 2 ^ 8 := (0#8).isLt
  rw [State.baseAddress, BitVec.toNat_append, ← Nat.shiftLeft_add_eq_or_of_lt h, Nat.shiftLeft_eq, Nat.mul_comm]
  rfl

/-! ### A host access -/

/-- A host access always answers a next state, and that is one of these: the bus error response; a read; a write while
BUSY, which goes to STATUS or is dropped; a write while idle. -/
theorem hostAccess_cases (a : HostAccess) (s : State) :
    (target a.offset a.width = none ∧ hostAccess a s = .next (s.respond .busError)) ∨
    (∃ t, target a.offset a.width = some t ∧ a.data = none ∧
      hostAccess a s = .next (s.respond (.data a.width (s.readTarget t a.width)))) ∨
    (∃ t v, target a.offset a.width = some t ∧ a.data = some v ∧ s.busy = true ∧
      hostAccess a s = .next (writeBusy t v (s.respond .written))) ∨
    (∃ t v, target a.offset a.width = some t ∧ a.data = some v ∧ s.busy = false ∧
      hostAccess a s = writeIdle t v (s.respond .written)) := by
  unfold hostAccess
  cases target a.offset a.width with
  | none => exact .inl ⟨rfl, rfl⟩
  | some t =>
    cases a.data with
    | none => exact .inr (.inl ⟨t, rfl, rfl, rfl⟩)
    | some v =>
      cases s.busy with
      | true => exact .inr (.inr (.inl ⟨t, v, rfl, rfl, rfl, by simp⟩))
      | false => exact .inr (.inr (.inr ⟨t, v, rfl, rfl, rfl, by simp⟩))

/-- A write while BUSY either goes to STATUS or is dropped with ERR_BUSY. -/
theorem writeBusy_cases (t : Target) (v : Word) (s : State) :
    (t = .status ∧ writeBusy t v s = s.writeStatus (v.setWidth 32)) ∨ (t ≠ .status ∧ writeBusy t v s = s.raise .busy) := by
  cases t <;> simp [writeBusy]

/-- A command word written while idle runs its command or raises ERR_CMD. -/
theorem submit_cases (w : Word32) (s : State) :
    (∃ i, decode w = .command i ∧ submit w s = exec i s) ∨
      (∃ e, decode w = .illegal e ∧ submit w s = .next (s.raise .cmd)) := by
  unfold submit
  cases decode w with
  | command i => exact .inl ⟨i, rfl, rfl⟩
  | illegal e => exact .inr ⟨e, rfl, rfl⟩

/-- A link of a chain of `if`s that answers `some z` is the one that answers, or the rest of the chain does. -/
theorem of_ite_some {α : Type} {c : Prop} [Decidable c] {x z : α} {y : Option α}
    (h : (if c then some x else y) = some z) : (c ∧ x = z) ∨ y = some z := by
  by_cases hc : c
  · rw [if_pos hc] at h; exact .inl ⟨hc, Option.some.inj h⟩
  · rw [if_neg hc] at h; exact .inr h

/-- What a supported access can reach: bytes of the window; a 32-bit register or a half at its offset, 32 bits wide; a
64-bit register at its offset, 64 bits wide. -/
theorem target_cases {off : BitVec 8} {width : Nat} {t : Target} (h : target off width = some t) :
    (0x80 ≤ off.toNat ∧ t = .window (off.toNat - 0x80) (width / 8)) ∨
    (width = 32 ∧ (off, t) ∈ [(0x00#8, Target.caps), (0x08#8, .status), (0x10#8, .cmd), (0x18#8, .srcAddr .lo),
      (0x1C#8, .srcAddr .hi), (0x20#8, .len .lo), (0x24#8, .len .hi), (0x28#8, .cntLo .lo), (0x2C#8, .cntLo .hi),
      (0x30#8, .cntHi .lo), (0x34#8, .cntHi .hi), (0x38#8, .bufLen), (0x40#8, .faultAddr .lo),
      (0x44#8, .faultAddr .hi)]) ∨
    (width = 64 ∧ (off, t) ∈ [(0x18#8, Target.srcAddr .whole), (0x20#8, .len .whole), (0x28#8, .cntLo .whole),
      (0x30#8, .cntHi .whole), (0x40#8, .faultAddr .whole)]) := by
  unfold target at h
  split at h
  · rename_i hw
    obtain ⟨_, rfl⟩ | h := of_ite_some h
    · exact .inl ⟨hw, rfl⟩
    · cases h
  · split at h
    · rename_i hw
      refine .inr (.inl ⟨hw, ?_⟩)
      iterate 14 obtain ⟨rfl, rfl⟩ | h := of_ite_some h; · exact List.mem_of_elem_eq_true rfl
      cases h
    · split at h
      · rename_i hw
        refine .inr (.inr ⟨hw, ?_⟩)
        iterate 5 obtain ⟨rfl, rfl⟩ | h := of_ite_some h; · exact List.mem_of_elem_eq_true rfl
        cases h
      · cases h

/-- STATUS is reached only by a 32-bit access at its offset. -/
theorem target_eq_status {off : BitVec 8} {width : Nat} (h : target off width = some .status) :
    off = 0x08 ∧ width = 32 := by
  obtain ⟨_, e⟩ | ⟨hw, e⟩ | ⟨_, e⟩ := target_cases h
  · cases e
  · simp at e; exact ⟨e, hw⟩
  · simp at e

/-! ### A turn of the Host -/

/-- A turn of the Host whose statement makes a register access, by its offset or at a bus address in the window, is
that access; a turn whose bus address lies outside the window does nothing. -/
theorem hostStep_access {s : State} {op : HostOp} {rest : List HostOp} {a : HostAccess} (h : s.hostProg = op :: rest)
    (ha : op.registerAccess s.baseAddress = some a) : hostStep s = hostAccess a { s with hostProg := rest } := by
  cases op with
  | access b => simp only [HostOp.registerAccess, Option.some.injEq] at ha; simp [hostStep, h, ha]
  | bus addr width data =>
    simp only [HostOp.registerAccess, Option.map_eq_some_iff] at ha
    obtain ⟨off, ho, rfl⟩ := ha
    simp only [hostStep, h, busAccess]
    rw [show State.baseAddress { s with hostProg := rest } = s.baseAddress from rfl, ho]
  | poll off hi lo value => simp [HostOp.registerAccess] at ha
  | memWrite x bs => simp [HostOp.registerAccess] at ha

/-- A turn of the Host: nothing left to do; a register access; an access outside the window; a POLL; a memory write. -/
theorem hostStep_cases (s : State) :
    (s.hostProg = [] ∧ hostStep s = .next s) ∨
    (∃ op rest a, s.hostProg = op :: rest ∧ op.registerAccess s.baseAddress = some a ∧
      hostStep s = hostAccess a { s with hostProg := rest }) ∨
    (∃ addr width data rest, s.hostProg = .bus addr width data :: rest ∧ windowOffset s.baseAddress addr = none ∧
      hostStep s = .next { s with hostProg := rest }) ∨
    (∃ off hi lo value rest, s.hostProg = .poll off hi lo value :: rest ∧
      hostStep s = .next (hostPoll off hi lo value rest s)) ∨
    (∃ x bs rest, s.hostProg = .memWrite x bs :: rest ∧ hostStep s = hostMemWrite x bs { s with hostProg := rest }) := by
  cases hp : s.hostProg with
  | nil => exact .inl ⟨rfl, by simp [hostStep, hp]⟩
  | cons op rest =>
    cases ha : op.registerAccess s.baseAddress with
    | some a => exact .inr (.inl ⟨op, rest, a, rfl, ha, hostStep_access hp ha⟩)
    | none =>
      cases op with
      | access a => simp [HostOp.registerAccess] at ha
      | bus addr width data =>
        have hw : windowOffset s.baseAddress addr = none := by simpa [HostOp.registerAccess] using ha
        refine .inr (.inr (.inl ⟨addr, width, data, rest, rfl, hw, ?_⟩))
        simp only [hostStep, hp, busAccess]
        rw [show State.baseAddress { s with hostProg := rest } = s.baseAddress from rfl, hw]
      | poll off hi lo value =>
        exact .inr (.inr (.inr (.inl ⟨off, hi, lo, value, rest, rfl, by simp [hostStep, hp]⟩)))
      | memWrite x bs =>
        exact .inr (.inr (.inr (.inr ⟨x, bs, rest, rfl, by simp [hostStep, hp]⟩)))

end Sys2Proof.Machine
end

