-- ==== Sys2Proof/Laws/Memory.lean ====
section
/-! SUPPORT. The laws of host data memory: a read after a write, and that every operation keeps the canonical form. -/

namespace Sys2Proof.Machine

theorem Memory.read_write_same (m : Memory) (a : Nat) (b : Byte) : (m.write a b).read a = some b := by
  induction m with
  | nil => simp [Memory.write, Memory.read]
  | cons c m ih =>
    obtain ⟨x, y⟩ := c
    simp only [Memory.write]
    split
    · simp [Memory.read]
    · split
      · simp [Memory.read]
      · rename_i h
        have hx : x ≠ a := fun e => h e.symm
        simp [Memory.read, hx, ih]

theorem Memory.read_write_other (m : Memory) {a x : Nat} (b : Byte) (h : x ≠ a) : (m.write a b).read x = m.read x := by
  induction m with
  | nil => simp [Memory.write, Memory.read, Ne.symm h]
  | cons c m ih =>
    obtain ⟨y, z⟩ := c
    simp only [Memory.write]
    split
    · simp [Memory.read, Ne.symm h]
    · split
      · rename_i e
        subst e
        simp [Memory.read, Ne.symm h]
      · simp [Memory.read, ih]

/-- A write of bytes, read back: inside the written range the new bytes, elsewhere the old. -/
theorem Memory.read_writeBytes (m : Memory) (a x : Nat) (bs : List Byte) :
    (m.writeBytes a bs).read x = if a ≤ x ∧ x < a + bs.length then bs[x - a]? else m.read x := by
  induction bs generalizing m a with
  | nil => simp [Memory.writeBytes]
  | cons b bs ih =>
    rw [Memory.writeBytes, ih]
    by_cases hx : x = a
    · subst hx
      simp [Memory.read_write_same]
    · rw [Memory.read_write_other _ _ hx]
      by_cases h : a + 1 ≤ x ∧ x < a + 1 + bs.length
      · have h2 : a ≤ x ∧ x < a + (b :: bs).length := by simp only [List.length_cons]; omega
        have h3 : x - a = (x - (a + 1)) + 1 := by omega
        rw [if_pos h, if_pos h2, h3, List.getElem?_cons_succ]
      · have h2 : ¬ (a ≤ x ∧ x < a + (b :: bs).length) := by simp only [List.length_cons]; omega
        rw [if_neg h, if_neg h2]

/-- The addresses listed after a write are those listed before and the written one. -/
theorem Memory.mem_keys_write (m : Memory) (a : Nat) (b : Byte) (x : Nat) :
    x ∈ (m.write a b).map Prod.fst ↔ x = a ∨ x ∈ m.map Prod.fst := by
  induction m with
  | nil => simp [Memory.write]
  | cons c m ih =>
    obtain ⟨y, z⟩ := c
    simp only [Memory.write]
    split
    · simp
    · split
      · rename_i e
        simp [e]
      · simp only [List.map_cons, List.mem_cons, ih]
        tauto

theorem Memory.pairwise_write {m : Memory} {a : Nat} (b : Byte) (h : (m.map Prod.fst).Pairwise (· < ·)) :
    ((m.write a b).map Prod.fst).Pairwise (· < ·) := by
  induction m with
  | nil => simp [Memory.write]
  | cons c m ih =>
    obtain ⟨y, z⟩ := c
    simp only [List.map_cons, List.pairwise_cons] at h
    simp only [Memory.write]
    split
    · rename_i hlt
      simp only [List.map_cons, List.pairwise_cons, List.mem_cons]
      refine ⟨fun x hx => ?_, h⟩
      rcases hx with rfl | hx
      · exact hlt
      · exact Nat.lt_trans hlt (h.1 x hx)
    · split
      · rename_i e
        simpa [e] using h
      · simp only [List.map_cons, List.pairwise_cons]
        refine ⟨fun x hx => ?_, ih h.2⟩
        rcases (Memory.mem_keys_write m a b x).mp hx with rfl | hx
        · omega
        · exact h.1 x hx

/-- A write at an address of the address space keeps the canonical form. -/
theorem Memory.write_wf {m : Memory} {a : Nat} (b : Byte) (h : Memory.wf m) (ha : a < addressLimit) :
    Memory.wf (m.write a b) := by
  refine ⟨Memory.pairwise_write b h.1, fun c hc => ?_⟩
  have hk := (Memory.mem_keys_write m a b c.1).mp (List.mem_map_of_mem hc)
  rcases hk with hk | hk
  · exact hk ▸ ha
  · obtain ⟨d, hd, e⟩ := List.mem_map.mp hk
    exact e ▸ h.2 d hd

/-- A write of bytes inside the address space keeps the canonical form. -/
theorem Memory.writeBytes_wf {m : Memory} {a : Nat} {bs : List Byte} (h : Memory.wf m)
    (ha : a + bs.length ≤ addressLimit) : Memory.wf (m.writeBytes a bs) := by
  induction bs generalizing m a with
  | nil => exact h
  | cons b bs ih =>
    simp only [List.length_cons] at ha
    exact ih (Memory.write_wf b h (by omega)) (by omega)

theorem State.reset_memory_wf : Memory.wf State.reset.mem := ⟨List.Pairwise.nil, by simp [State.reset]⟩

/-- The Host's memory write keeps the canonical form. -/
theorem hostMemWrite_wf {a : Nat} {bs : List Byte} {s t : State} (h : Memory.wf s.mem)
    (e : hostMemWrite a bs s = .next t) : Memory.wf t.mem := by
  unfold hostMemWrite at e
  split at e
  · cases e
    exact Memory.writeBytes_wf h ‹_›
  · cases e

end Sys2Proof.Machine
end

