-- ==== Sys2Proof/WellFormed.lean ====
section
/-! DEFINITION. The form of a command and of a host access. The machine gives a meaning to ill-formed host accesses
too (R52: a bus error response); well-formedness says which accesses R66 lets a program write down. -/

namespace Sys2Proof

/-- R62, R65: a command has no operand field, so nothing in it can be ill formed. -/
def Instr.wf : Instr → Bool
  | .update => true
  | .clear => true

/-- R66: the width is 8, 32 or 64. -/
def HostAccess.widthOk (a : HostAccess) : Bool :=
  a.width == 8 || a.width == 32 || a.width == 64

/-- R66: the data of a WR has `width` bits. -/
def HostAccess.dataOk (a : HostAccess) : Bool :=
  match a.data with
  | none => true
  | some v => decide (v.toNat < 2 ^ a.width)

/-- R66: a host access as the format gives it. -/
def HostAccess.wf (a : HostAccess) : Bool :=
  a.widthOk && a.dataOk

end Sys2Proof
end

