-- ==== Sys2Proof/Laws/PerInstr.lean ====
section
/-! SUPPORT. Statements made for every command, as syntax: its word is a word of the opcode map and decodes to it. -/

namespace Sys2Proof.Laws.CommandWord

/-- A command is well formed, its word has RSV = 0 and its own opcode, the word decodes to the command, and the listing
prints its mnemonic. -/
def Statement (i : Instr) : Prop :=
  i.wf = true ∧ rsvField (encode i) = 0 ∧ opField (encode i) = opcode i ∧ decode (encode i) = .command i ∧
    disassemble (encode i) = mnemonic i

theorem update : Statement .update := by
  refine ⟨rfl, by decide, by decide, by decide, by decide⟩

theorem clear : Statement .clear := by
  refine ⟨rfl, by decide, by decide, by decide, by decide⟩

end Sys2Proof.Laws.CommandWord
end

