-- ==== Sys2Proof/Tests/Slice0.lean ====
section
/-! SUPPORT. Small tests: decoding of words written out from the spec's encoding, the form checks, worked values of
95_test_vectors.md, and a witness for every statement of Certificates/Slice0/Obligations.lean that has hypotheses. -/

namespace Sys2Proof.Tests

open Sys2Proof.Machine

/-! ### Form checks: one ill-formed term for each -/

theorem test_wf_commands : Instr.update.wf = true ∧ Instr.clear.wf = true := by decide
theorem test_wf_access : HostAccess.wf ⟨0x18, 64, some 5⟩ = true := by decide
theorem test_wf_refuses_width : HostAccess.widthOk ⟨0x18, 16, some 5⟩ = false := by decide
theorem test_wf_refuses_wide_data : HostAccess.dataOk ⟨0x80, 8, some 256⟩ = false := by decide

/-! ### Decoding -/

/-- RSV = 0 in bits 31:8, OP = 00000001 in bits 7:0 (R62, R63). -/
theorem test_decode_update : decode (0b000000000000000000000000#24 ++ 0b00000001#8) = .command .update := by decide

/-- RSV = 0, OP = 00000010. -/
theorem test_decode_clear : decode (0b000000000000000000000000#24 ++ 0b00000010#8) = .command .clear := by decide

/-- X1 to X4. -/
theorem test_decode_illegal :
    decode 0x00000000#32 = .illegal .illegalOpcode ∧ decode 0x00000003#32 = .illegal .illegalOpcode ∧
      decode 0x000000FF#32 = .illegal .illegalOpcode ∧ decode 0x00000101#32 = .illegal .reservedBits := by decide

theorem test_table_words :
    decodeTableWord 32 1 = some .update ∧ decodeTableWord 32 2 = some .clear ∧ decodeTableWord 32 3 = none := by decide

/-- R72; the letter case is log 28's. -/
theorem test_disassemble :
    disassemble 0x00000001#32 = "UPDATE" ∧ disassemble 0x00000101#32 = ".illegal 0x00000101" ∧
      disassemble 0x0000000A#32 = ".illegal 0x0000000A" := by decide

/-- R69: BUF is encoded 0, MEM is encoded 1. -/
theorem test_src_code : Src.code .buf = 0 ∧ Src.code .mem = 1 := by decide

/-! ### The counter: K3, K8, K11 -/

theorem test_counter_K3 :
    counterLow 0xFFFFFFFFFFFFFFF8 1 = 0 ∧ counterHigh 0xFFFFFFFFFFFFFFF8 0 1 = 1 := by decide
theorem test_counter_K8 :
    counterLow 0xFFFFFFFFFFFFFFF8 0xFFFFFFFFFFFFFFFF = 0xFFFFFFFFFFFFFFF0 ∧
      counterHigh 0xFFFFFFFFFFFFFFF8 0 0xFFFFFFFFFFFFFFFF = 8 := by decide
theorem test_counter_K11 :
    counterHigh 0xFFFFFFFFFFFFFFF8 0xFFFFFFFFFFFFFFFF 1 = 0 := by decide

/-! ### States for one step -/

/-- What a test looks at in the outcome of a step. -/
def after {α : Type} (r : Result) (f : State → α) : Option α :=
  match r with
  | .next t => some (f t)
  | _ => none

theorem exists_of_after {α : Type} {r : Result} {f : State → α} {x : α} (h : after r f = some x) :
    ∃ t, r = .next t ∧ f t = x := by
  cases r with
  | next t => exact ⟨t, rfl, by simpa [after] using h⟩
  | fault e => cases h
  | refused e => cases h

/-- Memory of S1: "ab" at 0x1000. -/
def abMem : Memory := [(0x1000, 0x61), (0x1001, 0x62)]

/-- Idle, about to absorb "ab". -/
def ready : State := { State.reset with srcAddr := 0x1000, len := 2, mem := abMem }

/-- The same with the Host's write of UPDATE next, and the schedule of an UPDATE that only stashes. -/
def readyRun : State :=
  { ready with hostProg := [wrCmd .update], sched := [.host, .engine, .engine, .engine, .engine] }

/-- "ab" at the cursor, `b` bytes in BUF, in phase `p`. -/
def running (p : Phase) (b : BitVec 7) : State :=
  { ready with phase := p, bufLen := b, curAddr := 0x1000, curLen := 2 }

/-- Waiting for the Compressor with a BUF request. -/
def waiting : State :=
  { running (.waitCmp bufRequest .bulk) 0 with curLen := 130, history := [bufRequest] }

/-- 128 readable bytes from 0x1001 on. -/
def longMem : Memory := (List.range 128).map fun i => (0x1001 + i, BitVec.ofNat 8 i)

/-- The copy path: 128 bytes at the misaligned address 0x1001. -/
def copying : State := { State.reset with phase := .bulk, curAddr := 0x1001, curLen := 128, mem := longMem }

/-- The direct path: 130 bytes at 0x1000, none of them readable (X15 in spirit). -/
def direct : State := { State.reset with phase := .bulk, curAddr := 0x1000, curLen := 130 }

/-! ### The commands -/

/-- R87: LEN = 2 starts the Engine. -/
theorem test_update_starts :
    after (exec .update ready) (fun t => (t.phase, t.curAddr, t.curLen)) = some (.count, 0x1000, 2) := by decide

/-- X5: `a + n = 2^64 + 1` sets ERR_RANGE. -/
theorem test_update_range :
    after (exec .update { ready with srcAddr := 0xFFFFFFFFFFFFFFFF }) (fun t => (t.phase, t.statusWord))
      = some (.idle, 0x00000008) := by decide

/-- L1. -/
theorem test_clear :
    after (exec .clear { ready with cntLo := 40, cntHi := 3, bufLen := 5, errs := ⟨true, false, false, false⟩ })
      (fun t => (t.cntLo, t.cntHi, t.bufLen, t.statusWord)) = some (0, 0, 0, 2) := by decide

/-- X10: CLEAR while BUSY. -/
theorem test_clear_busy :
    after (exec .clear { running .drain 3 with cntLo := 40 }) (fun t => (t.cntLo, t.errs.busy)) = some (40, true) := by
  decide

/-- The host's question, of the first step after reset. -/
theorem test_fetch_word :
    after (step (State.reset.withFetchWord 32 1)) (fun t => t.resp) = some (some .written) ∧
      after (step ((State.withFetchWord { ready with bufLen := 5 } 32 2))) (fun t => t.bufLen) = some 0 := by decide

/-! ### The Engine -/

/-- S1, second step: "cde" after "ab" has BUFLEN 5 and the bytes in place (here "ab" after 3 bytes). -/
theorem test_drain_partial :
    (engineStep (running .drain 3)).bufLen = 5 ∧ (engineStep (running .drain 3)).buf[4] = 0x62 := by decide

/-- X12: the first unreadable byte's address is recorded. -/
theorem test_stash_bus_error :
    (engineStep { running .stash 0 with curLen := 10 }).faultAddr = 0x1002 ∧
      (engineStep { running .stash 0 with curLen := 10 }).statusWord = 0x00000010 := by decide

/-- U8 in small: one direct request. -/
theorem test_direct : (engineStep direct).outstanding = some ⟨.mem, 0x1000, 1⟩ := by decide

/-! ### Register access: A1, A5, A7, A11, A14, A15, A16 and X16 -/

theorem test_caps : capsWord ⟨false, .bulk⟩ = 0x00400307 ∧ capsWord ⟨true, .copyAll⟩ = 0x00403307 := by decide
theorem test_half_write :
    after (hostAccess ⟨0x20, 32, some 7⟩ { ready with len := 0x100000005 }) (fun t => t.len) = some 0x100000007 := by
  decide
theorem test_half_read :
    after (hostAccess ⟨0x2C, 32, none⟩ { ready with cntLo := 0x1122334455667788 }) (fun t => t.resp)
      = some (some (.data 32 0x11223344)) := by decide
theorem test_buflen_write :
    after (hostAccess ⟨0x38, 32, some 0x85⟩ ready) (fun t => t.bufLen) = some 5 ∧
      after (hostAccess ⟨0x38, 32, some 128⟩ ready) (fun t => t.bufLen) = some 0 := by decide
theorem test_unsupported :
    target 0x08 64 = none ∧ target 0x48 32 = none ∧ target 0x1A 32 = none ∧ target 0x84 64 = none := by decide

/-- R49 of FAULT_ADDR, by log 13's reading. -/
theorem test_fault_addr_half :
    after (hostAccess ⟨0x44, 32, none⟩ { ready with faultAddr := 0x1122334455667788 }) (fun t => t.resp)
      = some (some (.data 32 0x11223344)) := by decide

/-- R43: the first and the last byte of the window at BASE = 0x100, and the bytes next to it. -/
theorem test_window_place :
    windowOffset 0x100 0x100 = some 0x00 ∧ windowOffset 0x100 0x1FF = some 0xFF ∧ windowOffset 0x100 0xFF = none ∧
      windowOffset 0x100 0x200 = none ∧
      after (agentStep .host { ready with base := 1, hostProg := [.bus 0x120 64 (some 9)] }) (fun t => t.len)
        = some 9 := by decide
theorem test_window_write :
    after (hostAccess ⟨0x80, 32, some 0x44434241⟩ ready) (fun t => bufBytes t.buf 0 4)
      = some [0x41, 0x42, 0x43, 0x44] := by decide
theorem test_status_write :
    after (hostAccess ⟨0x08, 32, some 2⟩ { ready with errs := ⟨true, false, true, false⟩ }) (fun t => t.statusWord)
      = some 0x00000008 := by decide

/-! ### Witnesses: the hypotheses of the statements can be met -/

theorem witness_idle : ready.busy = false ∧ ready.len ≠ 0 ∧ ready.srcAddr.toNat + ready.len.toNat ≤ 2 ^ 64 := by decide
theorem witness_top_of_memory :
    let s : State := { ready with srcAddr := 0xFFFFFFFFFFFFFFFE }
    s.busy = false ∧ s.len ≠ 0 ∧ s.srcAddr.toNat + s.len.toNat = 2 ^ 64 := by decide
theorem witness_zero_length : State.reset.busy = false ∧ State.reset.len = 0 := by decide
theorem witness_out_of_range :
    let s : State := { ready with srcAddr := 0xFFFFFFFFFFFFFFFF }
    s.busy = false ∧ s.len ≠ 0 ∧ 2 ^ 64 < s.srcAddr.toNat + s.len.toNat := by decide
theorem witness_busy : (running .drain 3).busy = true := by decide
theorem witness_commands_answer_next :
    (∃ t, exec .update ready = .next t) ∧ ∃ t, exec .clear ready = .next t := ⟨⟨_, rfl⟩, ⟨_, rfl⟩⟩
theorem witness_chunks : (5 : Word).toNat + (7 : Word).toNat < 2 ^ 64 := by decide
theorem witness_not_count : (running .drain 3).phase ≠ .count := by decide
theorem witness_drain_partial :
    let s := running .drain 125
    s.phase = .drain ∧ s.bufLen ≠ 0 ∧ s.curLen.toNat < 128 - s.bufLen.toNat ∧
      s.memRead s.curAddr.toNat s.curLen.toNat = .bytes [0x61, 0x62] := by decide
theorem witness_drain_full :
    let s := running .drain 126
    s.phase = .drain ∧ s.bufLen ≠ 0 ∧ 128 - s.bufLen.toNat ≤ s.curLen.toNat ∧
      s.memRead s.curAddr.toNat (128 - s.bufLen.toNat) = .bytes [0x61, 0x62] := by decide
theorem witness_bulk_paths :
    (running .bulk 0).phase = .bulk ∧ (running .bulk 0).curLen.toNat < 128 ∧
      copying.phase = .bulk ∧ 128 ≤ copying.curLen.toNat ∧ copyPath copying.build copying.curAddr.toNat = true ∧
      direct.phase = .bulk ∧ 128 ≤ direct.curLen.toNat ∧ copyPath direct.build direct.curAddr.toNat = false := by decide
/-- The bytes a read returned, when it did. -/
def bytesRead : ReadResult → Option (List Byte)
  | .bytes bs => some bs
  | .busError _ => none

theorem witness_bulk_copy : (bytesRead (copying.memRead copying.curAddr.toNat 128)).isSome = true := by decide +kernel
theorem witness_bulk_direct_read :
    let s : State := { direct with mem := (0x1000, 9) :: longMem }
    (bytesRead (s.memRead 0x1000 (128 * 1))).isSome = true := by decide +kernel
theorem witness_stash :
    (running .stash 0).phase = .stash ∧ (running .stash 0).curLen.toNat < 128 ∧ (running .stash 0).curLen ≠ 0 ∧
      (running .stash 0).memRead (running .stash 0).curAddr.toNat (running .stash 0).curLen.toNat
        = .bytes [0x61, 0x62] := by decide
theorem witness_stash_empty :
    let s : State := { running .stash 0 with curLen := 0 }
    s.phase = .stash ∧ s.curLen = 0 ∧ s.memRead s.curAddr.toNat s.curLen.toNat = .bytes [] := by decide
theorem witness_failed_read :
    let s : State := { running .stash 0 with curLen := 10 }
    s.memRead s.curAddr.toNat (engineReads s) = .busError 0x1002 := by decide
theorem witness_engine_copy :
    (running .drain 3).memRead (running .drain 3).curAddr.toNat (engineReads (running .drain 3))
      = .bytes [0x61, 0x62] := by decide
theorem witness_waiting :
    waiting.phase = .waitCmp bufRequest .bulk ∧ (waiting.requestBlocks bufRequest).isSome = true ∧
      (engineStep direct).requestBlocks ⟨.mem, 0x1000, 1⟩ = none := by decide
/-- R153: the Compressor's turn and Reset's each end a wait. -/
theorem witness_wait_ends :
    after (agentStep .compressor waiting) (fun t => t.phase) = some .bulk ∧
      after (agentStep .reset waiting) (fun t => t.phase) = some .idle ∧
      after (agentStep .host waiting) (fun t => decide (t.phase = waiting.phase)) = some true := by decide
theorem witness_buf_stable :
    waiting.phase = .waitCmp ⟨.buf, 0, 1⟩ .bulk ∧ Agent.host ≠ .reset ∧ ∃ t, agentStep .host waiting = .next t :=
  ⟨rfl, by decide, ⟨_, rfl⟩⟩
theorem witness_unsupported :
    target (HostAccess.offset ⟨0x48, 32, none⟩) (HostAccess.width ⟨0x48, 32, none⟩) = none := by
  decide
/-- The first and the last access of the window in each width. -/
theorem witness_window :
    ∀ p ∈ [(0x80#8, 1), (0xFF#8, 1), (0x80#8, 4), (0xFC#8, 4), (0x80#8, 8), (0xF8#8, 8)],
      0x80 ≤ p.1.toNat ∧ (p.2 = 1 ∨ p.2 = 4 ∨ p.2 = 8) ∧ p.1.toNat % p.2 = 0 ∧ (target p.1 (8 * p.2)).isSome = true := by
  decide
theorem witness_window_read_after_write :
    ∃ t u, hostAccess ⟨0xF8, 64, some 5⟩ ready = .next t ∧ hostAccess ⟨0xF8, 64, none⟩ t = .next u :=
  ⟨_, _, rfl, rfl⟩
theorem witness_read : (HostAccess.data ⟨0x38, 32, none⟩) = none ∧ target 0x38 32 = some .bufLen ∧
    ready.busy = false ∧ (running .drain 3).busy = true ∧ Target.isContext .bufLen = true ∧ Target.isContext .status = false := by decide
theorem witness_write_while_busy :
    let s := running .drain 3
    s.busy = true ∧ (target 0x18 64).isSome = true ∧ (0x18#8) ≠ 0x08 ∧ (target 0x08 32).isSome = true := by decide
theorem witness_host_turn_busy : ∃ t, agentStep .host waiting = .next t ∧ waiting.busy = true := ⟨_, rfl, rfl⟩
theorem witness_poll :
    let s : State := { ready with hostProg := [pollIdle] }
    s.hostProg = .poll 0x08 0 0 0 :: [] ∧ target 0x08 32 = some .status := by decide
theorem witness_error_cleared :
    let s : State := { ready with errs := ⟨true, false, false, false⟩, hostProg := [wr32 0x08 2] }
    after (agentStep .host s) (fun t => (s.errs.get .cmd, t.errs.get .cmd)) = some (true, false) ∧
      after (agentStep .reset s) (fun t => t.errs.get .cmd) = some false := by decide
theorem witness_error_set :
    let s : State := { ready with hostProg := [wr32 0x10 3] }
    after (agentStep .host s) (fun t => (s.errs.get .cmd, t.errs.get .cmd)) = some (false, true) := by decide
theorem witness_fault_addr_changes :
    let s : State := { running .stash 0 with curLen := 10 }
    after (agentStep .engine s) (fun t => decide (t.faultAddr ≠ s.faultAddr)) = some true ∧
      after (agentStep .reset { s with faultAddr := 5 }) (fun t => t.faultAddr) = some 0 := by decide
theorem witness_memory_changes :
    let s : State := { ready with hostProg := [.memWrite 0x2000 [1]] }
    after (agentStep .host s) (fun t => (Memory.read s.mem 0x2000, Memory.read t.mem 0x2000))
      = some (none, some 1) := by decide
theorem witness_operand_changes :
    let s : State := { ready with hostProg := [wr64 0x20 9] }
    after (agentStep .host s) (fun t => decide (t.len ≠ s.len)) = some true := by decide
theorem witness_race :
    (running .drain 3).busy = true ∧ ∃ t, hostMemWrite 0x1000 [7] (running .drain 3) = .next t := ⟨by decide, ⟨_, rfl⟩⟩
theorem witness_memory_top :
    ¬ 2 ^ 64 < 0xFFFFFFFFFFFFFFFF + ([1] : List Byte).length ∧
      2 ^ 64 < 0xFFFFFFFFFFFFFFFF + ([1, 2] : List Byte).length := by decide
theorem witness_step_runs :
    let s : State := { ready with sched := [.host], hostProg := [wr32 0x10 1] }
    s.sched = .host :: [] ∧ s.hostProg = wr32 0x10 1 :: [] ∧ s.busy = false ∧ decode 1 = .command .update := by decide

theorem reset_inv_witness : State.reset.Inv := by
  refine ⟨by decide, ?_, ?_, ?_, ?_⟩ <;> simp [State.reset, State.busy, phaseOk]

theorem witness_invariant_step :
    let s : State := { State.reset with sched := [.engine] }
    s.Inv ∧ ∃ t, step s = .next t :=
  ⟨⟨by decide, by simp [State.reset], by simp [State.reset], by simp [State.reset, State.busy], by
    simp [State.reset, phaseOk]⟩, ⟨_, rfl⟩⟩

theorem ready_holds : Memory.holds readyRun.mem readyRun.srcAddr.toNat [0x61, 0x62] := by
  intro i h
  match i, h with
  | 0, _ => rfl
  | 1, _ => rfl

theorem witness_update_ready : UpdateReady readyRun [0x61, 0x62] :=
  ⟨rfl, rfl, rfl, by decide, by decide, ready_holds⟩

/-- "ab" absorbed by R71's pseudo-instruction: UPDATE, then a POLL that reads BUSY = 1 once and BUSY = 0 once; a write of
LEN that is dropped and a write to other memory fall between. -/
def polledRun : State :=
  { ready with
    hostProg := [wrCmd .update, wr64 0x20 9, .memWrite 0x2000 [1], pollIdle]
    sched := [.host, .host, .engine, .host, .host, .compressor, .engine, .engine, .engine, .host] }

/-- A property of every state of a run of at most `n` steps, as a computation. -/
def allAlong (p : State → Bool) : Nat → State → Bool
  | 0, s => p s
  | n + 1, s => p s && match step s with
    | .next t => allAlong p n t
    | _ => true

theorem of_allAlong {p : State → Bool} {n k : Nat} {s t : State} (h : allAlong p n s = true) (hk : k ≤ n)
    (hr : Host.Core.run core k s = .next t) : p t = true := by
  induction k generalizing n s with
  | zero =>
    cases hr
    cases n with
    | zero => exact h
    | succ n => exact (Bool.and_eq_true_iff.mp h).1
  | succ k ih =>
    cases n with
    | zero => omega
    | succ n =>
      obtain ⟨u, hs, hr⟩ := run_succ.mp hr
      have h2 := (Bool.and_eq_true_iff.mp h).2
      rw [hs] at h2
      exact ih h2 (by omega) hr

/-- What `State.undisturbed` asks of one state, decided. -/
def quietState (s : State) : Bool :=
  s.sched.head? != some .reset && (s.sched.head? != some .host || match s.hostProg with
    | [] | .poll _ _ _ _ :: _ => true
    | .memWrite a bs :: _ => a + bs.length ≤ s.srcAddr.toNat || s.srcAddr.toNat + s.len.toNat ≤ a
    | op :: _ => match op.registerAccess s.baseAddress with
      | some a => a.data.isNone || s.busy
      | none => true)

theorem quietState_spec {s : State} (h : quietState s = true) :
    s.sched.head? ≠ some .reset ∧ (s.sched.head? = some .host → s.hostUndisturbing) := by
  simp only [quietState, Bool.and_eq_true, bne_iff_ne, Bool.or_eq_true] at h
  refine ⟨h.1, fun hh => ?_⟩
  have h2 := h.2.resolve_left (fun c => c hh)
  unfold State.hostUndisturbing
  split at h2 <;> simp_all
  intro a ha
  simpa [ha] using h2

/-- A run whose states after the first step are all quiet is undisturbed. -/
theorem undisturbed_of {s : State} {n : Nat}
    (h : (match step s with | .next t => allAlong quietState n t | _ => true) = true) : s.undisturbed (n + 1) := by
  intro k t h1 h2 hr
  obtain ⟨k, rfl⟩ : ∃ j, k = j + 1 := ⟨k - 1, by omega⟩
  obtain ⟨u, hs, hr⟩ := run_succ.mp hr
  rw [hs] at h
  exact quietState_spec (of_allAlong h (by omega) hr)

theorem polledRun_holds : Memory.holds polledRun.mem polledRun.srcAddr.toNat [0x61, 0x62] := by
  intro i h
  match i, h with
  | 0, _ => rfl
  | 1, _ => rfl

theorem witness_update_run :
    UpdateReady polledRun [0x61, 0x62] ∧
      polledRun.sched = .host :: [.host, .engine, .host, .host, .compressor, .engine, .engine, .engine, .host] ∧
      polledRun.undisturbed 9 ∧ ∃ t, Host.Core.run core 10 polledRun = .next t ∧ t.phase = .idle ∧
        t.hostProg = [] ∧ t.errs.busy = true ∧ t.len = 2 := by
  refine ⟨⟨rfl, rfl, rfl, by decide, by decide, polledRun_holds⟩, rfl, undisturbed_of (by decide), ?_⟩
  obtain ⟨t, h, e⟩ := exists_of_after (r := Host.Core.run core 10 polledRun)
    (f := fun t => (t.phase, t.hostProg, t.errs.busy, t.len)) (x := (.idle, [], true, 2)) (by decide)
  simp only [Prod.mk.injEq] at e
  exact ⟨t, h, e⟩

/-- Six rounds, with other turns in them. -/
def fairAgents : List Agent :=
  [.compressor, .engine, .host, .compressor, .engine, .engine, .compressor, .host, .engine, .compressor, .engine,
    .compressor, .compressor, .engine, .compressor, .engine, .engine, .compressor]

/-- The Compressor can read what it is asked for, decided. -/
def readableRequest (s : State) : Bool :=
  match s.outstanding with
  | some r => (s.requestBlocks r).isSome
  | none => true

/-- 130 bytes at 0x1000 on the direct path: an UPDATE with one request, and rounds with idle turns in them. -/
def fairRun : State :=
  { ready with
    len := 130
    mem := (List.range 130).map fun i => (0x1000 + i, BitVec.ofNat 8 i)
    hostProg := [wrCmd .update, pollIdle]
    sched := .host :: fairAgents }

theorem witness_update_finishes :
    fairRun.phase = .idle ∧ fairRun.raced = [] ∧ fairRun.hostProg.head? = some (wrCmd .update) ∧
      (∀ op ∈ fairRun.hostProg, op.inSpace = true) ∧ fairRun.sched = .host :: fairAgents ∧ .reset ∉ fairAgents ∧
      fairRun.len.toNat / 128 + 5 ≤ rounds false fairAgents ∧
      (∀ k u r, k ≤ fairAgents.length → Host.Core.run core k fairRun = .next u → u.outstanding = some r →
        (u.requestBlocks r).isSome = true) := by
  refine ⟨rfl, rfl, rfl, by decide, rfl, by decide, by decide, fun k u r hk hr ho => ?_⟩
  have h := of_allAlong (p := readableRequest) (n := fairAgents.length) (by decide +kernel) hk hr
  simpa [readableRequest, ho] using h

/-- Two contexts with the same valid bytes and different stale ones, and the same chunks at different addresses. -/
theorem witness_independence :
    let c : Context := ⟨8, 0, 1, Vector.replicate 128 7⟩
    let c' : Context := ⟨8, 0, 1, (Vector.replicate 128 7).setIfInBounds 5 9⟩
    c.bufLen = c'.bufLen ∧ c.valid = c'.valid ∧ c.buf[5] ≠ c'.buf[5] ∧
      [(0, ([1, 2] : List Byte))].map Prod.snd = [(77, ([1, 2] : List Byte))].map Prod.snd := by decide +kernel

theorem witness_associativity :
    (([(0x1000, ([0x61, 0x62] : List Byte)), (0x1010, [0x63, 0x64, 0x65])].map Prod.snd).flatten).length < 2 ^ 64 := by
  decide

theorem witness_boundary :
    State.reset.context.bufLen = 0 ∧ (List.replicate 128 (0 : Byte)).length = 128 ∧
      (List.replicate 129 (0 : Byte)).length = 129 := by
  refine ⟨rfl, List.length_replicate, List.length_replicate⟩

end Sys2Proof.Tests
end

section
/-! PROOFS. Everything a turn of each agent can do, as an inductive predicate and two lists of cases. -/

namespace Sys2Proof.Machine

/-! ### A turn of the Host -/

/-- What a turn of the Host can leave, with the guard of each effect. -/
inductive HostTurn (s : State) : State → Prop where
  /-- Nothing left to do, a read, a bus error, a POLL, an ignored write, an UPDATE of LEN = 0. -/
  | quiet (prog : List HostOp) (resp : Option BusResp) : HostTurn s { s with hostProg := prog, resp := resp }
  /-- A write to STATUS, at any time (R121). -/
  | status {op : HostOp} {rest : List HostOp} {v : Word} (hop : s.hostProg = op :: rest)
      (hacc : op.registerAccess s.baseAddress = some ⟨0x08, 32, some v⟩) :
      HostTurn s ({ s with hostProg := rest, resp := some .written }.writeStatus (v.setWidth 32))
  /-- An error is raised: ERR_BUSY while BUSY, ERR_CMD or ERR_RANGE while idle (R113, R115, R130). -/
  | raise (rest : List HostOp) {e : Err} (hbusy : s.busy = true ↔ e = .busy) (hbus : e ≠ .bus) :
      HostTurn s ({ s with hostProg := rest, resp := some .written }.raise e)
  /-- UPDATE is accepted and starts the Engine (R87). -/
  | start (rest : List HostOp) (hidle : s.busy = false) (hlen : s.len ≠ 0)
      (hrange : s.srcAddr.toNat + s.len.toNat ≤ addressLimit) :
      HostTurn s ({ s with hostProg := rest, resp := some .written }.start s.srcAddr s.len)
  /-- The context is written: CLEAR, CNT_LO, CNT_HI, BUFLEN or the BUF window (R112, R117 to R119). -/
  | context (rest : List HostOp) (hidle : s.busy = false) (lo hi : Word) (n : BitVec 7) (buf : Vector Byte 128) :
      HostTurn s { s with
        hostProg := rest, resp := some .written, cntLo := lo, cntHi := hi, bufLen := n, buf := buf }
  /-- SRC_ADDR or LEN is written (R116). -/
  | operand {op : HostOp} {rest : List HostOp} {off : BitVec 8} {width : Nat} {v : Word} (hidle : s.busy = false)
      (hop : s.hostProg = op :: rest) (hacc : op.registerAccess s.baseAddress = some ⟨off, width, some v⟩)
      (hoff : off ∈ [0x18#8, 0x1C#8, 0x20#8, 0x24#8]) (a n : Word) :
      HostTurn s { s with hostProg := rest, resp := some .written, srcAddr := a, len := n }
  /-- Host data memory is written (R14, R160). -/
  | memory {x : Nat} {bs : List Byte} {rest : List HostOp} (hop : s.hostProg = .memWrite x bs :: rest)
      (hspace : x + bs.length ≤ addressLimit) :
      HostTurn s { s with
        hostProg := rest
        mem := Memory.writeBytes s.mem x bs
        raced := if s.busy then s.raced ++ Memory.cellsAt s.mem x bs.length else s.raced }

/-- SRC_ADDR and LEN are reached only at their own offsets. -/
theorem target_srcAddr_or_len {off : BitVec 8} {width : Nat} {p : Part}
    (h : target off width = some (.srcAddr p) ∨ target off width = some (.len p)) :
    off ∈ [0x18#8, 0x1C#8, 0x20#8, 0x24#8] := by
  obtain h | h := h
  all_goals obtain ⟨_, e⟩ | ⟨_, e⟩ | ⟨_, e⟩ := target_cases h
  case inl.inl | inr.inl => cases e
  all_goals
    simp at e ⊢
    tauto

/-- A command word written while idle: dropped with ERR_CMD or ERR_RANGE, no effect, started, or CLEAR. -/
theorem submit_turn {s t : State} {rest : List HostOp} {w : Word32} (hidle : s.busy = false)
    (h : submit w { s with hostProg := rest, resp := some .written } = .next t) : HostTurn s t := by
  have hb : State.busy { s with hostProg := rest, resp := some .written } = false := hidle
  obtain ⟨i, _, e⟩ | ⟨_, _, e⟩ := submit_cases w { s with hostProg := rest, resp := some .written }
  · obtain ⟨hb', _⟩ | ⟨_, _, _, e'⟩ | ⟨_, _, hl, hr, e'⟩ | ⟨_, _, _, _, e'⟩ | ⟨_, _, e'⟩ :=
      exec_cases i { s with hostProg := rest, resp := some .written }
    · rw [hb] at hb'; cases hb'
    all_goals
      rw [e, e'] at h
      cases h
    · exact .quiet rest _
    · exact .start rest hidle hl hr
    · exact .raise rest (by simp [hidle]) (by decide)
    · exact .context rest hidle 0 0 0 s.buf
  · rw [e] at h
    cases h
    exact .raise rest (by simp [hidle]) (by decide)

/-- A supported register write while idle. -/
theorem writeIdle_turn {s t : State} {op : HostOp} {rest : List HostOp} {off : BitVec 8} {width : Nat} {v : Word}
    {g : Target} (hidle : s.busy = false) (hop : s.hostProg = op :: rest)
    (hacc : op.registerAccess s.baseAddress = some ⟨off, width, some v⟩) (hg : target off width = some g)
    (h : writeIdle g v { s with hostProg := rest, resp := some .written } = .next t) : HostTurn s t := by
  cases g with
  | cmd => exact submit_turn hidle h
  | caps | faultAddr => cases h; exact .quiet rest _
  | status =>
    obtain ⟨rfl, rfl⟩ := target_eq_status hg
    cases h
    exact .status hop hacc
  | srcAddr p =>
    cases h
    exact .operand hidle hop hacc (target_srcAddr_or_len (.inl hg)) (p.merge s.srcAddr v) s.len
  | len p =>
    cases h
    exact .operand hidle hop hacc (target_srcAddr_or_len (.inr hg)) s.srcAddr (p.merge s.len v)
  | cntLo | cntHi | bufLen | window => cases h; exact .context rest hidle _ _ _ _

/-- A register access of the Host. -/
theorem hostAccess_turn {s t : State} {op : HostOp} {rest : List HostOp} {a : HostAccess}
    (hop : s.hostProg = op :: rest) (hacc : op.registerAccess s.baseAddress = some a)
    (h : hostAccess a { s with hostProg := rest } = .next t) : HostTurn s t := by
  obtain ⟨off, width, data⟩ := a
  obtain ⟨_, e⟩ | ⟨_, _, _, e⟩ | ⟨g, v, hg, hd, hb, e⟩ | ⟨g, v, hg, hd, hb, e⟩ :=
    hostAccess_cases ⟨off, width, data⟩ { s with hostProg := rest }
  all_goals rw [e] at h
  · cases h; exact .quiet rest _
  · cases h; exact .quiet rest _
  · cases hd
    cases h
    obtain ⟨rfl, e'⟩ | ⟨_, e'⟩ := writeBusy_cases g v (State.respond { s with hostProg := rest } .written)
    · obtain ⟨rfl, rfl⟩ := target_eq_status hg
      rw [e']
      exact .status hop hacc
    · rw [e']
      exact .raise rest (iff_of_true hb rfl) (by decide)
  · cases hd
    exact writeIdle_turn hb hop hacc hg h

/-- A POLL changes at most the Host's program and its last answer. -/
theorem hostPoll_turn (off : BitVec 8) (hi lo value : Nat) (rest : List HostOp) (s : State) :
    HostTurn s (hostPoll off hi lo value rest s) := by
  unfold hostPoll
  split
  · exact .quiet s.hostProg _
  · dsimp only
    split
    · exact .quiet rest _
    · exact .quiet s.hostProg _

/-- R57, R70: a turn of the Host that answers a next state leaves one of the effects above. -/
theorem hostStep_turn {s t : State} (h : hostStep s = .next t) : HostTurn s t := by
  obtain ⟨_, e⟩ | ⟨op, rest, a, hop, hacc, e⟩ | ⟨_, _, _, rest, _, _, e⟩ | ⟨_, _, _, _, _, _, e⟩ |
    ⟨x, bs, rest, hop, e⟩ := hostStep_cases s
  all_goals rw [e] at h
  · cases h; exact .quiet s.hostProg s.resp
  · exact hostAccess_turn hop hacc h
  · cases h; exact .quiet rest s.resp
  · cases h; exact hostPoll_turn ..
  · unfold hostMemWrite at h
    split at h
    · cases h; exact .memory hop ‹_›
    · cases h

/-! ### A turn of any agent -/

/-- R7: the agent of a turn that answers a next state, and what it did. -/
theorem agentStep_cases {a : Agent} {s t : State} (h : agentStep a s = .next t) :
    (a = .host ∧ HostTurn s t) ∨ (a = .engine ∧ t = engineStep s) ∨ (a = .compressor ∧ t = acknowledge s) ∨
      (a = .reset ∧ t = s.resetHbbm) := by
  cases a with
  | host => exact .inl ⟨rfl, hostStep_turn h⟩
  | engine => cases h; exact .inr (.inl ⟨rfl, rfl⟩)
  | compressor => cases h; exact .inr (.inr (.inl ⟨rfl, rfl⟩))
  | reset => cases h; exact .inr (.inr (.inr ⟨rfl, rfl⟩))

end Sys2Proof.Machine
end

section
/-! PROOFS. The invariant is kept by every turn (O53). -/

namespace Sys2Proof.Machine

/-! ### The cursor -/

/-- R34: consuming at most what is left keeps the cursor in step with the operands, without wrap. -/
theorem cursorOk_advance {s : State} {m : Nat} (h : cursorOk s) (hm : m ≤ s.curLen.toNat) : cursorOk (s.advance m) := by
  obtain ⟨hsum, hlimit⟩ := h
  have hlen := s.curLen.isLt
  have haddr : (s.advance m).curAddr.toNat = s.curAddr.toNat + m := by
    rw [State.advance_curAddr, BitVec.toNat_add, BitVec.toNat_ofNat]
    omega
  have hrest : (s.advance m).curLen.toNat = s.curLen.toNat - m := by
    rw [State.advance_curLen, BitVec.toNat_sub, BitVec.toNat_ofNat]
    omega
  refine ⟨?_, hlimit⟩
  rw [haddr, hrest, State.advance_srcAddr, State.advance_len]
  omega

/-! ### Requests -/

/-- R102: the BUF request has a legal shape in every build. -/
theorem requestOk_bufRequest (b : Build) : requestOk b bufRequest := ⟨rfl, rfl⟩

theorem bulkRequest_n_toNat (s : State) : (bulkRequest s).n.toNat = s.curLen.toNat / 128 := by
  have hlen := s.curLen.isLt
  simp only [bulkRequest, BitVec.toNat_ofNat]
  omega

/-- R94, R102: a direct request with a full block left has a legal shape. -/
theorem requestOk_bulkRequest {s : State} (hlen : 128 ≤ s.curLen.toNat)
    (hpath : copyPath s.build s.curAddr.toNat = false) : requestOk s.build (bulkRequest s) := by
  have hlt := s.curLen.isLt
  have hn := bulkRequest_n_toNat s
  have haddr : (bulkRequest s).addr.toNat = s.curAddr.toNat % 2 ^ 64 := by simp [bulkRequest]
  have hbulk : s.build.policy = .bulk := by
    cases hp : s.build.policy with
    | bulk => rfl
    | copyAll => simp [copyPath, hp] at hpath
  have halign : s.build.canUnaligned = true ∨ s.curAddr.toNat % 8 = 0 := by
    cases hu : s.build.canUnaligned with
    | true => exact .inl rfl
    | false => exact .inr (by simpa [copyPath, hbulk, hu] using hpath)
  refine ⟨by omega, by omega, hbulk, halign.imp_right fun h => ?_⟩
  rw [haddr, wordBytes]
  omega

/-- R93, R94: a legal request issued in BULK asks for no more than is left of the chunk. -/
theorem bulkRequestOk_le_curLen {s : State} {r : Request} (h : bulkRequestOk s r) (hr : requestOk s.build r) :
    128 * r.n.toNat ≤ s.curLen.toNat := by
  unfold bulkRequestOk at h
  unfold requestOk at hr
  cases hsrc : r.src with
  | buf =>
    simp only [hsrc] at h hr
    have hn : r.n.toNat = 1 := by rw [hr.2]; rfl
    omega
  | mem =>
    simp only [hsrc] at h
    omega

/-- R47: every block the Compressor reads for a request has 128 bytes. -/
theorem requestBlocks_length {s : State} {r : Request} {bs : List Block} (h : s.requestBlocks r = some bs) :
    ∀ bl ∈ bs, bl.length = blockBytes := by
  unfold State.requestBlocks at h
  split at h
  · cases h
    simp
  · split at h
    · rename_i bytes hread
      cases h
      exact blocksOf_length (State.memRead_bytes hread).1.ge
    · cases h

/-! ### The invariant under the state's operations -/

/-- While idle the invariant asks nothing of the cursor, and of the phase only that no old value is kept. -/
theorem State.Inv.of_idle {t : State} (hmem : Memory.wf t.mem) (hreq : ∀ r ∈ t.history, requestOk t.build r)
    (hblocks : ∀ bl ∈ t.absorbed, bl.length = blockBytes) (hidle : t.phase = .idle) (hraced : t.raced = []) : t.Inv where
  memory := hmem
  requests := hreq
  blocks := hblocks
  cursor hb := absurd hidle (t.busy_eq_true_iff.mp hb)
  phase := by simpa only [phaseOk, hidle] using hraced

theorem State.Inv.raced_eq_nil {s : State} (h : s.Inv) (hidle : s.phase = .idle) : s.raced = [] := by
  simpa only [phaseOk, hidle] using h.phase

theorem State.Inv.bufLen_eq_zero_of_bulk {s : State} (h : s.Inv) (hp : s.phase = .bulk) : s.bufLen = 0 := by
  simpa only [phaseOk, hp] using h.phase

theorem State.Inv.tick {s : State} (h : s.Inv) (rest : List Agent) : (s.tick rest).Inv :=
  ⟨h.memory, h.requests, h.blocks, h.cursor, h.phase⟩

theorem State.Inv.resetHbbm {s : State} (h : s.Inv) : s.resetHbbm.Inv :=
  .of_idle h.memory (by simp) (by simp) rfl rfl

theorem State.Inv.finish {s : State} (h : s.Inv) : s.finish.Inv :=
  .of_idle h.memory h.requests h.blocks rfl rfl

theorem State.Inv.abort {s : State} (h : s.Inv) (x : Nat) : (s.abort x).Inv :=
  .of_idle h.memory h.requests h.blocks rfl rfl

/-- DRAIN asks nothing of the context and the cursor's position, so a copy and a move of the cursor keep it. -/
theorem State.Inv.advance_of_drain {s : State} (h : s.Inv) (hp : s.phase = .drain) (buf : Vector Byte 128)
    (n : BitVec 7) {m : Nat} (hm : m ≤ s.curLen.toNat) :
    (State.advance { s with buf := buf, bufLen := n } m).Inv where
  memory := h.memory
  requests := h.requests
  blocks := h.blocks
  cursor hb := cursorOk_advance (h.cursor hb) hm
  phase := by simp [phaseOk, hp]

/-- R99: a legal request issued with BUFLEN = 0, and in step with the cursor when it is issued in BULK. -/
theorem State.Inv.issue {s : State} {r : Request} {back : Resume} (h : s.Inv) (hbusy : s.busy = true)
    (hempty : s.bufLen = 0) (hr : requestOk s.build r)
    (hback : match back with | .drain => r = bufRequest | .bulk => bulkRequestOk s r) : (s.issue r back).Inv where
  memory := h.memory
  requests q hq := by
    rcases List.mem_append.mp hq with hq | hq
    · exact h.requests q hq
    · exact List.mem_singleton.mp hq ▸ hr
  blocks := h.blocks
  cursor _ := h.cursor hbusy
  phase := ⟨hempty, by simp, by cases back <;> exact hback⟩

/-! ### The invariant under each agent's turn -/

/-- R98: a step of the Engine keeps the invariant. -/
theorem State.Inv.engineStep {s : State} (h : s.Inv) : (Machine.engineStep s).Inv := by
  obtain ⟨e, _⟩ | ⟨hp, e⟩ | ⟨hp, hz, e⟩ | ⟨x, _, e⟩ | ⟨bs, _, _, _, _, _, e⟩ | ⟨bs, hp, _, hle, _, _, e⟩ |
    ⟨hp, hlt, e⟩ | ⟨bs, hp, hle, _, _, _, e⟩ | ⟨hp, hle, hpath, e⟩ | ⟨_, _, e⟩ | ⟨bs, _, _, _, _, e⟩ :=
      engineStep_cases s
  all_goals rw [e]
  · exact h
  · -- COUNT goes on to DRAIN
    have hc : cursorOk s := h.cursor (by simp [State.busy, hp])
    exact ⟨h.memory, h.requests, h.blocks, fun _ => hc, trivial⟩
  · -- DRAIN of an empty buffer
    have hc : cursorOk s := h.cursor (by simp [State.busy, hp])
    exact ⟨h.memory, h.requests, h.blocks, fun _ => hc, hz⟩
  · exact h.abort x
  · -- DRAIN of a chunk that ends inside the partial block
    exact .of_idle h.memory h.requests h.blocks rfl rfl
  · -- DRAIN that fills the block
    refine (h.advance_of_drain hp _ _ hle).issue ?_ rfl (requestOk_bufRequest _) rfl
    simp [State.busy, hp]
  · -- BULK goes on to STASH
    have hc : cursorOk s := h.cursor (by simp [State.busy, hp])
    exact ⟨h.memory, h.requests, h.blocks, fun _ => hc, h.bufLen_eq_zero_of_bulk hp, hlt⟩
  · -- BULK on the copy path
    have hbuf : State.Inv { s with buf := bufWrite s.buf 0 bs } :=
      ⟨h.memory, h.requests, h.blocks, h.cursor, h.phase⟩
    refine hbuf.issue ?_ (h.bufLen_eq_zero_of_bulk hp) (requestOk_bufRequest _) hle
    simp [State.busy, hp]
  · -- BULK on the direct path: bytes are left below 2^64, so the request's address is the cursor
    have hbusy : s.busy = true := by simp [State.busy, hp]
    obtain ⟨hsum, hlimit : _ ≤ 2 ^ 64⟩ := h.cursor hbusy
    have haddr : (bulkRequest s).addr.toNat = s.curAddr.toNat := by
      simp only [bulkRequest, BitVec.toNat_setWidth]
      omega
    exact h.issue hbusy (h.bufLen_eq_zero_of_bulk hp) (requestOk_bulkRequest hle hpath) ⟨haddr, bulkRequest_n_toNat s⟩
  · exact h.finish
  · -- STASH of a remainder
    exact .of_idle h.memory h.requests h.blocks rfl rfl

/-- R99: an acknowledgement keeps the invariant. -/
theorem State.Inv.acknowledge {s : State} (h : s.Inv) : (Machine.acknowledge s).Inv := by
  obtain ⟨r, back, bs, hp, hbs, e⟩ | e := acknowledge_cases s
  case inr => exact e.symm ▸ h
  have hc : cursorOk s := h.cursor (by simp [State.busy, hp])
  have hphase := h.phase
  simp only [phaseOk, hp] at hphase
  obtain ⟨hempty, hlast, hback⟩ := hphase
  have hblocks : ∀ bl ∈ s.absorbed ++ bs, bl.length = blockBytes := fun bl hbl =>
    (List.mem_append.mp hbl).elim (h.blocks bl) (requestBlocks_length hbs bl)
  rw [e]
  cases back with
  | drain => exact ⟨h.memory, h.requests, hblocks, fun _ => hc, trivial⟩
  | bulk =>
    have hle := bulkRequestOk_le_curLen hback (h.requests r (List.mem_of_getLast? hlast))
    exact ⟨h.memory, h.requests, hblocks, fun _ => cursorOk_advance hc hle, hempty⟩

/-- Outside IDLE the phase's condition does not speak of host data memory or the old values kept of it. -/
theorem phaseOk_memory {s : State} (h : phaseOk s) (hbusy : s.busy = true) (prog : List HostOp) (m : Memory)
    (raced : List Host.Cell) : phaseOk { s with hostProg := prog, mem := m, raced := raced } := by
  unfold phaseOk at h ⊢
  cases hp : s.phase with
  | idle => exact absurd hp (s.busy_eq_true_iff.mp hbusy)
  | drain => trivial
  | count | bulk | stash | waitCmp =>
    simp only [hp] at h ⊢
    exact h

/-- R129: a turn of the Host keeps the invariant. -/
theorem State.Inv.hostTurn {s t : State} (h : s.Inv) (ht : HostTurn s t) : t.Inv := by
  cases ht with
  | quiet | status | raise => exact ⟨h.memory, h.requests, h.blocks, h.cursor, h.phase⟩
  | start rest hidle hlen hrange =>
    have hsrc : (s.srcAddr.setWidth 65).toNat = s.srcAddr.toNat := by
      have hlt := s.srcAddr.isLt
      simp only [BitVec.toNat_setWidth]
      omega
    exact ⟨h.memory, h.requests, h.blocks, fun _ => ⟨congrArg (· + s.len.toNat) hsrc, hrange⟩, hsrc, rfl, hlen⟩
  | context _ hidle | operand hidle =>
    have hp := s.busy_eq_false_iff.mp hidle
    exact .of_idle h.memory h.requests h.blocks hp (h.raced_eq_nil hp)
  | memory hop hspace =>
    have hmem := Memory.writeBytes_wf h.memory hspace
    cases hb : s.busy with
    | true => exact ⟨hmem, h.requests, h.blocks, h.cursor, phaseOk_memory h.phase hb _ _ _⟩
    | false =>
      have hp := s.busy_eq_false_iff.mp hb
      exact .of_idle hmem h.requests h.blocks hp (h.raced_eq_nil hp)

/-- R7: whichever agent moves, its turn keeps the invariant. -/
theorem State.Inv.agentStep {a : Agent} {s t : State} (h : s.Inv) (ht : Machine.agentStep a s = .next t) : t.Inv := by
  obtain ⟨_, ht⟩ | ⟨_, rfl⟩ | ⟨_, rfl⟩ | ⟨_, rfl⟩ := agentStep_cases ht
  · exact h.hostTurn ht
  · exact h.engineStep
  · exact h.acknowledge
  · exact h.resetHbbm

/-- Settles O53: a step is a tick, which the invariant does not see, and a turn of one agent. -/
theorem stepKeepsInvariant : Obligations.StepKeepsInvariant := by
  unfold Obligations.StepKeepsInvariant
  intro s t h hstep
  rw [step_eq_agentStep] at hstep
  exact (h.tick _).agentStep hstep

end Sys2Proof.Machine
end

section
/-! PROOFS. The frames of the agents' turns, and who changes the error bits, FAULT_ADDR and the operands (O22, O42, O44,
O46). -/

namespace Sys2Proof.Machine

/-! ### The error bits -/

/-- R133: setting a bit sets that bit and no other. -/
@[simp] theorem Errors.get_set (e : Errors) (f g : Err) : (e.set f).get g = (decide (g = f) || e.get g) := by
  cases f <;> cases g <;> rfl

/-- R121: a bit survives a write to STATUS exactly when its position holds 0. -/
@[simp] theorem Errors.get_clearBits (e : Errors) (v : Word32) (f : Err) :
    (e.clearBits v).get f = (e.get f && !v.getLsbD f.code) := by
  cases f <;> rfl

/-- R127: every cause code is a bit position of the 32-bit STATUS. -/
theorem Err.code_lt (e : Err) : e.code < 32 := by
  cases e <;> decide

/-! ### What each turn leaves unchanged -/

/-- R83: an Engine step writes at most the context, the phase, the cursor, the history, the kept old values, ERR_BUS and
FAULT_ADDR. -/
theorem engineStep_frame (s : State) :
    engineStep s = { s with
      cntLo := (engineStep s).cntLo, cntHi := (engineStep s).cntHi, bufLen := (engineStep s).bufLen
      buf := (engineStep s).buf, phase := (engineStep s).phase, curAddr := (engineStep s).curAddr
      curLen := (engineStep s).curLen, history := (engineStep s).history, raced := (engineStep s).raced
      errs := { s.errs with bus := (engineStep s).errs.bus }, faultAddr := (engineStep s).faultAddr } := by
  obtain ⟨e, _⟩ | ⟨_, e⟩ | ⟨_, _, e⟩ | ⟨_, _, e⟩ | ⟨_, _, _, _, _, _, e⟩ | ⟨_, _, _, _, _, _, e⟩ | ⟨_, _, e⟩ |
    ⟨_, _, _, _, _, _, e⟩ | ⟨_, _, _, e⟩ | ⟨_, _, e⟩ | ⟨_, _, _, _, _, e⟩ := engineStep_cases s
  all_goals rw [e] <;> rfl

@[simp] theorem engineStep_build (s : State) : (engineStep s).build = s.build := by rw [engineStep_frame]
@[simp] theorem engineStep_base (s : State) : (engineStep s).base = s.base := by rw [engineStep_frame]
@[simp] theorem engineStep_srcAddr (s : State) : (engineStep s).srcAddr = s.srcAddr := by rw [engineStep_frame]
@[simp] theorem engineStep_len (s : State) : (engineStep s).len = s.len := by rw [engineStep_frame]
@[simp] theorem engineStep_absorbed (s : State) : (engineStep s).absorbed = s.absorbed := by rw [engineStep_frame]
@[simp] theorem engineStep_cleared (s : State) : (engineStep s).cleared = s.cleared := by rw [engineStep_frame]
@[simp] theorem engineStep_resp (s : State) : (engineStep s).resp = s.resp := by rw [engineStep_frame]
@[simp] theorem engineStep_hostProg (s : State) : (engineStep s).hostProg = s.hostProg := by rw [engineStep_frame]
@[simp] theorem engineStep_mem (s : State) : (engineStep s).mem = s.mem := by rw [engineStep_frame]
@[simp] theorem engineStep_errs_cmd (s : State) : (engineStep s).errs.cmd = s.errs.cmd := by rw [engineStep_frame]
@[simp] theorem engineStep_errs_busy (s : State) : (engineStep s).errs.busy = s.errs.busy := by rw [engineStep_frame]
@[simp] theorem engineStep_errs_range (s : State) : (engineStep s).errs.range = s.errs.range := by rw [engineStep_frame]

/-- R131, R134: an Engine step leaves the errors and FAULT_ADDR, or a read of it failed and it aborts. -/
theorem engineStep_errs_or_abort (s : State) :
    ((engineStep s).errs = s.errs ∧ (engineStep s).faultAddr = s.faultAddr) ∨
      ∃ x, s.memRead s.curAddr.toNat (engineReads s) = .busError x ∧ engineStep s = s.abort x := by
  obtain ⟨e, _⟩ | ⟨_, e⟩ | ⟨_, _, e⟩ | ⟨x, hx, e⟩ | ⟨_, _, _, _, _, _, e⟩ | ⟨_, _, _, _, _, _, e⟩ | ⟨_, _, e⟩ |
    ⟨_, _, _, _, _, _, e⟩ | ⟨_, _, _, e⟩ | ⟨_, _, e⟩ | ⟨_, _, _, _, _, e⟩ := engineStep_cases s
  case inr.inr.inr.inl => exact .inr ⟨x, hx, e⟩
  all_goals
    rw [e]
    exact .inl ⟨rfl, rfl⟩

/-- R33: in IDLE the Engine takes no step. -/
theorem engineStep_of_idle {s : State} (h : s.busy = false) : engineStep s = s := by
  simp [engineStep, s.busy_eq_false_iff.mp h]

/-- R99: an acknowledgement writes at most the stream, the phase and the cursor. -/
theorem acknowledge_frame (s : State) :
    acknowledge s = { s with
      absorbed := (acknowledge s).absorbed, phase := (acknowledge s).phase
      curAddr := (acknowledge s).curAddr, curLen := (acknowledge s).curLen } := by
  obtain ⟨r, back, bs, _, _, e⟩ | e := acknowledge_cases s
  · rw [e]
    cases back <;> rfl
  · rw [e]

@[simp] theorem acknowledge_build (s : State) : (acknowledge s).build = s.build := by rw [acknowledge_frame]
@[simp] theorem acknowledge_base (s : State) : (acknowledge s).base = s.base := by rw [acknowledge_frame]
@[simp] theorem acknowledge_srcAddr (s : State) : (acknowledge s).srcAddr = s.srcAddr := by rw [acknowledge_frame]
@[simp] theorem acknowledge_len (s : State) : (acknowledge s).len = s.len := by rw [acknowledge_frame]
@[simp] theorem acknowledge_errs (s : State) : (acknowledge s).errs = s.errs := by rw [acknowledge_frame]
@[simp] theorem acknowledge_faultAddr (s : State) : (acknowledge s).faultAddr = s.faultAddr := by rw [acknowledge_frame]

/-- R29, R43: no agent writes the build parameters or BASE. -/
theorem agentStep_build_base {a : Agent} {s t : State} (h : agentStep a s = .next t) :
    t.build = s.build ∧ t.base = s.base := by
  obtain ⟨_, ht⟩ | ⟨_, rfl⟩ | ⟨_, rfl⟩ | ⟨_, rfl⟩ := agentStep_cases h
  · cases ht <;> exact ⟨rfl, rfl⟩
  · exact ⟨engineStep_build s, engineStep_base s⟩
  · exact ⟨acknowledge_build s, acknowledge_base s⟩
  · exact ⟨rfl, rfl⟩

/-- R31: a turn of the Host does not write FAULT_ADDR. -/
theorem HostTurn.faultAddr_eq {s t : State} (h : HostTurn s t) : t.faultAddr = s.faultAddr := by
  cases h <;> rfl

/-! ### The obligations -/

/-- Settles O22: the frame of `engineStep`, which also holds of an abort. -/
theorem engineFrame : Obligations.EngineFrame := by
  unfold Obligations.EngineFrame
  intro s
  have hbus : (engineStep s).errs.bus = s.errs.bus ∧ (engineStep s).faultAddr = s.faultAddr ∨
      ∃ x, s.memRead s.curAddr.toNat (engineReads s) = .busError x :=
    (engineStep_errs_or_abort s).imp (fun ⟨he, hf⟩ => ⟨congrArg Errors.bus he, hf⟩) fun ⟨x, hx, _⟩ => ⟨x, hx⟩
  exact ⟨engineStep_build s, engineStep_base s, engineStep_srcAddr s, engineStep_len s, engineStep_absorbed s,
    engineStep_cleared s, engineStep_resp s, engineStep_hostProg s, fun a => by rw [engineStep_mem],
    engineStep_errs_cmd s, engineStep_errs_busy s, engineStep_errs_range s, hbus, engineStep_of_idle⟩

/-- Settles O42: of all turns only the Host's write to STATUS and Reset clear a bit; a raise only sets one. -/
theorem errorBitsAreSticky : Obligations.ErrorBitsAreSticky := by
  unfold Obligations.ErrorBitsAreSticky
  intro a s t e hstep hset hclear
  obtain ⟨ha, ht⟩ | ⟨_, rfl⟩ | ⟨_, rfl⟩ | ⟨ha, _⟩ := agentStep_cases hstep
  · cases ht with
    | status hop hacc =>
      refine .inr ⟨ha, _, _, _, hop, hacc, ?_⟩
      simpa [hset, e.code_lt] using hclear
    | raise => simp [hset] at hclear
    | quiet | start | context | operand | memory => exact absurd (hset.symm.trans hclear) (by decide)
  · obtain ⟨he, _⟩ | ⟨x, _, he⟩ := engineStep_errs_or_abort s
    · rw [he, hset] at hclear
      cases hclear
    · simp [he, hset] at hclear
  · rw [acknowledge_errs, hset] at hclear
    cases hclear
  · exact .inl ha

/-- Settles O44: only the Engine's abort and Reset write FAULT_ADDR. -/
theorem faultAddrOnlyFromErrBus : Obligations.FaultAddrOnlyFromErrBus := by
  unfold Obligations.FaultAddrOnlyFromErrBus
  intro a s t hstep hne
  obtain ⟨_, ht⟩ | ⟨ha, rfl⟩ | ⟨_, rfl⟩ | ⟨ha, rfl⟩ := agentStep_cases hstep
  · exact absurd ht.faultAddr_eq hne
  · obtain ⟨_, hf⟩ | ⟨x, hx, e⟩ := engineStep_errs_or_abort s
    · exact absurd hf hne
    · exact .inr ⟨ha, congrArg (·.errs.bus) e, x, hx, congrArg State.faultAddr e⟩
  · exact absurd (acknowledge_faultAddr s) hne
  · exact .inl ⟨ha, rfl⟩

/-- Settles O46: of the Host's turns only the write of an operand changes one, and the Engine and the Compressor change
none. -/
theorem operandsChangeOnlyByHostWrite : Obligations.OperandsChangeOnlyByHostWrite := by
  unfold Obligations.OperandsChangeOnlyByHostWrite
  intro a s t hstep hne
  have hkept : ¬ (t.srcAddr = s.srcAddr ∧ t.len = s.len) := by tauto
  obtain ⟨ha, ht⟩ | ⟨_, rfl⟩ | ⟨_, rfl⟩ | ⟨ha, _⟩ := agentStep_cases hstep
  · cases ht with
    | operand hidle hop hacc hoff => exact .inr ⟨ha, hidle, _, _, _, _, _, hop, hacc, hoff⟩
    | quiet | status | raise | start | context | memory => exact absurd ⟨rfl, rfl⟩ hkept
  · exact absurd ⟨engineStep_srcAddr s, engineStep_len s⟩ hkept
  · exact absurd ⟨acknowledge_srcAddr s, acknowledge_len s⟩ hkept
  · exact .inl ha

end Sys2Proof.Machine
end

section
/-! PROOFS. Register accesses: which are supported, what a read answers, which writes are ignored (O26, O38, O34,
O39). -/

namespace Sys2Proof.Machine

/-! ### Supported accesses -/

/-- R52: the accesses the BUF window supports. -/
theorem windowTarget_isSome (k width : Nat) :
    (windowTarget k width).isSome = true ↔ width = 8 ∨ (width = 32 ∧ k % 4 = 0) ∨ (width = 64 ∧ k % 8 = 0) := by
  unfold windowTarget
  split
  · exact iff_of_true rfl ‹_›
  · exact iff_of_false (by simp) ‹_›

/-- R20, R49: the 32-bit accesses below the window (0x44: log 13). -/
theorem target32_isSome (off : BitVec 8) :
    (target32 off).isSome = true ↔
      off.toNat ∈ [0x00, 0x08, 0x10, 0x18, 0x1C, 0x20, 0x24, 0x28, 0x2C, 0x30, 0x34, 0x38, 0x40, 0x44] := by
  revert off
  decide

/-- R20, R49: the 64-bit accesses below the window. -/
theorem target64_isSome (off : BitVec 8) :
    (target64 off).isSome = true ↔ off.toNat ∈ [0x18, 0x20, 0x28, 0x30, 0x40] := by
  revert off
  decide

/-- R52: the supported accesses, in the window and below it. -/
theorem target_isSome (off : BitVec 8) (width : Nat) :
    (target off width).isSome = true ↔
      (width = 32 ∧ off.toNat ∈ [0x00, 0x08, 0x10, 0x18, 0x1C, 0x20, 0x24, 0x28, 0x2C, 0x30, 0x34, 0x38, 0x40, 0x44]) ∨
      (width = 64 ∧ off.toNat ∈ [0x18, 0x20, 0x28, 0x30, 0x40]) ∨
      (0x80 ≤ off.toNat ∧ (width = 8 ∨ (width = 32 ∧ off.toNat % 4 = 0) ∨ (width = 64 ∧ off.toNat % 8 = 0))) := by
  rw [← target32_isSome, ← target64_isSome]
  have below : ∀ n ∈ [0x00, 0x08, 0x10, 0x18, 0x1C, 0x20, 0x24, 0x28, 0x2C, 0x30, 0x34, 0x38, 0x40, 0x44], n < 0x80 := by
    decide
  have below' : ∀ n ∈ [0x18, 0x20, 0x28, 0x30, 0x40], n < 0x80 := by decide
  unfold target
  split
  · rename_i hw
    have h32 : ¬ (target32 off).isSome = true := fun h => absurd (below _ ((target32_isSome off).mp h)) (by omega)
    have h64 : ¬ (target64 off).isSome = true := fun h => absurd (below' _ ((target64_isSome off).mp h)) (by omega)
    have h4 : (off.toNat - 0x80) % 4 = off.toNat % 4 := by omega
    have h8 : (off.toNat - 0x80) % 8 = off.toNat % 8 := by omega
    simp [windowTarget_isSome, h4, h8, h32, h64, hw]
  · split
    · rename_i hw h32
      simp [h32, hw]
    · split
      · rename_i hw h32 h64
        simp [h64, hw]
      · rename_i hw h32 h64
        simp [h32, h64, hw]

/-! ### The window on the host bus -/

/-- R43: the window is the 256 bytes from BASE. -/
theorem windowOffset_baseAddress (s : State) (addr : Word) :
    windowOffset s.baseAddress addr
      = if 256 * s.base.toNat ≤ addr.toNat ∧ addr.toNat ≤ 256 * s.base.toNat + 0xFF then
          some (BitVec.ofNat 8 (addr.toNat - 256 * s.base.toNat))
        else none := by
  rw [windowOffset, State.baseAddress_toNat]

/-- Settles O26: `target_isSome` says which accesses are supported, and an access at a bus address in the window is the
access at its offset. -/
theorem supportedAccesses : Obligations.SupportedAccesses := by
  unfold Obligations.SupportedAccesses
  refine ⟨target_isSome, fun s addr width data rest hprog => ?_⟩
  have hwindow := windowOffset_baseAddress s addr
  split
  · rename_i h
    rw [if_pos h] at hwindow
    have hacc : (HostOp.bus addr width data).registerAccess s.baseAddress
        = some ⟨BitVec.ofNat 8 (addr.toNat - 256 * s.base.toNat), width, data⟩ := by
      simp [HostOp.registerAccess, hwindow]
    exact hostStep_access hprog hacc
  · rename_i h
    rw [if_neg h] at hwindow
    simp only [agentStep, hostStep, hprog, busAccess]
    rw [show State.baseAddress { s with hostProg := rest } = s.baseAddress from rfl, hwindow]

/-! ### Reads -/

/-- R114: a supported read answers what its target reads as, and changes nothing else. -/
theorem hostAccess_read {off : BitVec 8} {width : Nat} {g : Target} (s : State) (hg : target off width = some g) :
    hostAccess ⟨off, width, none⟩ s = .next (s.respond (.data width (s.readTarget g width))) := by
  simp [hostAccess, hg]

/-- R29: the number that CAPS is. -/
theorem capsWord_setWidth (b : Build) :
    (capsWord b).setWidth 64 = BitVec.ofNat 64 (7 + 3 * 2 ^ 8 + (if b.canUnaligned then 2 ^ 12 else 0)
      + (if b.policy = .copyAll then 2 ^ 13 else 0) + 64 * 2 ^ 16) := by
  obtain ⟨canUnaligned, policy⟩ := b
  cases canUnaligned <;> cases policy <;> rfl

/-- Settles O38: CAPS is no context register, so it reads as the build's word also while BUSY. -/
theorem capsIsTheBuild : Obligations.CapsIsTheBuild := by
  unfold Obligations.CapsIsTheBuild
  refine ⟨fun s => ?_, fun s t hstep => ?_⟩
  · have hread : s.readTarget .caps 32 = (capsWord s.build).setWidth 64 := by
      simp [State.readTarget, Target.isContext, State.registerValue]
    rw [hostAccess_read s (g := .caps) rfl, hread, capsWord_setWidth]
    rfl
  · rw [step_eq_agentStep] at hstep
    exact agentStep_build_base (s := s.tick _) hstep

/-- Settles O34: an unsupported read answers a bus error, a supported one what `readTarget` gives. -/
theorem readsHaveNoSideEffect : Obligations.ReadsHaveNoSideEffect := by
  unfold Obligations.ReadsHaveNoSideEffect
  rintro ⟨off, width, _⟩ s rfl
  cases hg : target off width with
  | none =>
    refine ⟨.busError, by simp [hostAccess, hg, State.respond], by simp, ?_⟩
    rintro _ rfl rfl
    cases hg
  | some g =>
    refine ⟨_, hostAccess_read s hg, ?_, ?_⟩
    · rintro _ ⟨⟩
      simp [State.readTarget]
    · rintro hidle rfl rfl
      cases hg
      simp [State.readTarget, hidle, State.registerValue]

/-! ### Writes -/

/-- R116 to R124: a supported write while idle is the write of its target. -/
theorem hostAccess_writeIdle {off : BitVec 8} {width : Nat} {g : Target} {s : State} (v : Word)
    (hg : target off width = some g) (hidle : s.busy = false) :
    hostAccess ⟨off, width, some v⟩ s = writeIdle g v (s.respond .written) := by
  simp [hostAccess, hg, hidle]

/-- Settles O39: a write to a read-only target while idle leaves the state as it was answered. -/
theorem readOnlyWritesAreIgnored : Obligations.ReadOnlyWritesAreIgnored := by
  unfold Obligations.ReadOnlyWritesAreIgnored
  intro s v hidle
  exact ⟨hostAccess_writeIdle (g := .caps) v rfl hidle, hostAccess_writeIdle (g := .faultAddr .whole) v rfl hidle,
    hostAccess_writeIdle (g := .faultAddr .lo) v rfl hidle, hostAccess_writeIdle (g := .faultAddr .hi) v rfl hidle⟩

end Sys2Proof.Machine
end

section
/-! PROOFS. Host data memory, failed reads, Reset, and the step of a command (O20, O45, O48, O50, O51). -/

namespace Sys2Proof.Machine

/-! ### Host data memory -/

/-- R42: a memory write of the Host inside the address space completes. -/
theorem hostMemWrite_of_le {a : Nat} {bs : List Byte} (s : State) (h : a + bs.length ≤ addressLimit) :
    hostMemWrite a bs s = .next { s with
      mem := Memory.writeBytes s.mem a bs
      raced := if s.busy then s.raced ++ Memory.cellsAt s.mem a bs.length else s.raced } := if_pos h

/-- R42: past the address space it is a fault (log 20). -/
theorem hostMemWrite_of_lt {a : Nat} {bs : List Byte} (s : State) (h : addressLimit < a + bs.length) :
    hostMemWrite a bs s = .fault .noSuchAddress := if_neg (Nat.not_le.mpr h)

@[simp] theorem acknowledge_mem (s : State) : (acknowledge s).mem = s.mem := by rw [acknowledge_frame]
@[simp] theorem acknowledge_hostProg (s : State) : (acknowledge s).hostProg = s.hostProg := by rw [acknowledge_frame]

/-- R44: the Host's memory write is the only turn that changes host data memory. -/
theorem agentStep_mem {a : Agent} {s t : State} (h : agentStep a s = .next t) :
    t.mem = s.mem ∨
      (a = .host ∧ ∃ x bs rest, s.hostProg = .memWrite x bs :: rest ∧ t.mem = Memory.writeBytes s.mem x bs) := by
  obtain ⟨ha, ht⟩ | ⟨_, rfl⟩ | ⟨_, rfl⟩ | ⟨_, rfl⟩ := agentStep_cases h
  · cases ht with
    | memory hop => exact .inr ⟨ha, _, _, _, hop, rfl⟩
    | quiet | status | raise | start | context | operand => exact .inl rfl
  · exact .inl (engineStep_mem s)
  · exact .inl (acknowledge_mem s)
  · exact .inl rfl

/-- Settles O45: memory changed, so the turn was the Host's memory write, and outside its range a read is as before. -/
theorem onlyTheHostWritesMemory : Obligations.OnlyTheHostWritesMemory := by
  unfold Obligations.OnlyTheHostWritesMemory
  intro a s t x hstep hne
  obtain hmem | ⟨ha, addr, bs, rest, hop, hmem⟩ := agentStep_mem hstep
  · exact absurd (by rw [hmem]) hne
  · rw [hmem, Memory.read_writeBytes] at hne ⊢
    by_cases hx : addr ≤ x ∧ x < addr + bs.length
    · exact ⟨ha, addr, bs, rest, hop, hx.1, hx.2, if_pos hx⟩
    · exact absurd (if_neg hx) hne

/-- Settles O48: the test of the range is the fault's, and a read inside the written range returns the written byte. -/
theorem memoryWriteStaysInTheAddressSpace : Obligations.MemoryWriteStaysInTheAddressSpace := by
  unfold Obligations.MemoryWriteStaysInTheAddressSpace
  intro s a bs rest hop
  have hstep : agentStep .host s = hostMemWrite a bs { s with hostProg := rest } := by simp [agentStep, hostStep, hop]
  refine ⟨fun h => hstep.trans (hostMemWrite_of_lt _ h), fun h => ⟨_, hstep.trans (hostMemWrite_of_le _ h), rfl, ?_⟩⟩
  intro i hi
  rw [Memory.read_writeBytes, if_pos (by omega), Nat.add_sub_cancel_left, List.getElem?_eq_getElem hi]

/-! ### Failed reads -/

/-- R97: an Engine step whose copy meets a failed read aborts there. -/
theorem engineStep_of_busError {s : State} {x : Nat} (h : s.memRead s.curAddr.toNat (engineReads s) = .busError x) :
    engineStep s = s.abort x := by
  have hpos : engineReads s ≠ 0 := fun h0 => by rw [h0] at h; cases h
  obtain ⟨_, hp | ⟨r, b, hp⟩⟩ | ⟨hp, _⟩ | ⟨hp, hz, _⟩ | ⟨y, hy, e⟩ | ⟨_, _, _, _, _, hbs, _⟩ | ⟨_, _, _, _, _, hbs, _⟩ |
    ⟨hp, hlt, _⟩ | ⟨_, _, _, _, _, hbs, _⟩ | ⟨hp, _, hpath, _⟩ | ⟨hp, hz, _⟩ | ⟨_, _, _, _, hbs, _⟩ :=
      engineStep_cases s
  · exact absurd (by rw [engineReads, hp]) hpos
  · exact absurd (by rw [engineReads, hp]) hpos
  · exact absurd (by rw [engineReads, hp]) hpos
  · exact absurd (by rw [engineReads, hp]; exact if_pos hz) hpos
  · cases h.symm.trans hy
    exact e
  · cases h.symm.trans hbs
  · cases h.symm.trans hbs
  · exact absurd (by rw [engineReads, hp]; exact if_neg (by omega)) hpos
  · cases h.symm.trans hbs
  · exact absurd (by rw [engineReads, hp]; exact if_neg (by simp [hpath])) hpos
  · exact absurd (by rw [engineReads, hp, hz]; rfl) hpos
  · cases h.symm.trans hbs

/-- Settles O20: `memRead` names the first byte that failed, and the step is the abort at it. -/
theorem failedReadAborts : Obligations.FailedReadAborts := by
  unfold Obligations.FailedReadAborts
  intro s x hread
  obtain ⟨k, hk, rfl, hfail, hbefore⟩ := State.memRead_busError hread
  rw [engineStep_of_busError hread]
  refine ⟨by omega, by omega, hfail, fun y hy hlt => ?_, rfl, rfl, rfl, rfl, rfl, rfl, rfl, rfl⟩
  have hy' : s.curAddr.toNat + (y - s.curAddr.toNat) = y := by omega
  exact hy' ▸ hbefore (y - s.curAddr.toNat) (by omega)

/-! ### Reset and the step of a command -/

/-- Settles O50: a turn of Reset is `resetHbbm`; with BUFLEN 0 no byte of BUF is valid. -/
theorem resetStepAbortsAndClears : Obligations.ResetStepAbortsAndClears := by
  unfold Obligations.ResetStepAbortsAndClears
  intro s
  have hvalid : s.resetHbbm.validBytes = [] := by simp [State.validBytes, bufBytes]
  have hstatus : s.resetHbbm.statusWord = 0 := (show State.reset.statusWord = 0 by decide)
  exact ⟨s.resetHbbm, rfl, hstatus, rfl, rfl, rfl, rfl, rfl, rfl, rfl, rfl, rfl, rfl, rfl, rfl, hvalid⟩

/-- R123: a command word written to CMD while idle runs its command. -/
theorem hostAccess_command {w : Word32} {i : Instr} {s : State} (hidle : s.busy = false) (hw : decode w = .command i) :
    hostAccess ⟨0x10, 32, some (w.setWidth 64)⟩ s = exec i (s.respond .written) := by
  have hw' : (w.setWidth 64).setWidth 32 = w := by simp
  rw [hostAccess_writeIdle (g := .cmd) _ rfl hidle, writeIdle, hw', submit, hw]

/-- Settles O51: the agent is the schedule's first, or a free value; the Host's write of a command word while idle is
`hostAccess_command`. -/
theorem stepRunsTheDecodedCommand : Obligations.StepRunsTheDecodedCommand := by
  unfold Obligations.StepRunsTheDecodedCommand
  refine ⟨fun s => ⟨_, fun b hb => ?_, step_eq_agentStep s⟩, fun s sched prog w i hsched hprog hidle hw => ?_⟩
  · rw [hb, Option.getD_some]
  · have hacc : (wr32 0x10 w).registerAccess (s.tick sched).baseAddress = some ⟨0x10, 32, some (w.setWidth 64)⟩ := rfl
    rw [step_eq_agentStep, hsched]
    exact (hostStep_access (s := s.tick sched) hprog hacc).trans (hostAccess_command hidle hw)

end Sys2Proof.Machine
end

section
/-! PROOFS. Reads of the wide registers, and the BUF window (O28, O33). -/

namespace Sys2Proof.Machine

/-! ### 64-bit registers -/

/-- R49: the lower half of a 64-bit register. -/
theorem Part.select_lo (v : Word) : Part.lo.select v = BitVec.ofNat 64 (v.toNat % 2 ^ 32) := by
  apply BitVec.eq_of_toNat_eq
  simp [Part.select]

/-- R49: the upper half of a 64-bit register. -/
theorem Part.select_hi (v : Word) : Part.hi.select v = BitVec.ofNat 64 (v.toNat / 2 ^ 32) := by
  have hv := v.isLt
  apply BitVec.eq_of_toNat_eq
  simp only [Part.select, BitVec.toNat_setWidth, BitVec.extractLsb'_toNat, BitVec.toNat_ofNat,
    Nat.shiftRight_eq_div_pow]
  omega

/-- R49, R114: a 64-bit register whose reads are not free values, read whole and by its halves. -/
theorem hostAccess_read_wide {s : State} {off : BitVec 8} {g : Part → Target} {v : Word}
    (hwhole : target off 64 = some (g .whole)) (hlo : target off 32 = some (g .lo))
    (hhi : target (off + 4) 32 = some (g .hi)) (hread : ∀ p width, s.readTarget (g p) width = p.select v) :
    hostAccess ⟨off, 64, none⟩ s = .next { s with resp := some (.data 64 v) } ∧
      hostAccess ⟨off, 32, none⟩ s = .next { s with resp := some (.data 32 (BitVec.ofNat 64 (v.toNat % 2 ^ 32))) } ∧
      hostAccess ⟨off + 4, 32, none⟩ s
        = .next { s with resp := some (.data 32 (BitVec.ofNat 64 (v.toNat / 2 ^ 32))) } := by
  rw [hostAccess_read s hwhole, hostAccess_read s hlo, hostAccess_read s hhi, hread, hread, hread, Part.select_lo,
    Part.select_hi]
  exact ⟨rfl, rfl, rfl⟩

/-- R114: a register outside the context reads as it stands, at any time. -/
theorem readTarget_of_not_context (s : State) {g : Target} (h : g.isContext = false) (width : Nat) :
    s.readTarget g width = s.registerValue g := by
  simp [State.readTarget, h]

/-- R114: while idle every register reads as it stands. -/
theorem readTarget_of_idle {s : State} (hidle : s.busy = false) (g : Target) (width : Nat) :
    s.readTarget g width = s.registerValue g := by
  simp [State.readTarget, hidle]

/-- Settles O28: SRC_ADDR, LEN and FAULT_ADDR are no context registers, CNT_LO and CNT_HI are read while idle. -/
theorem wideRegistersReadByHalves : Obligations.WideRegistersReadByHalves := by
  unfold Obligations.WideRegistersReadByHalves
  refine fun s => ⟨fun p hp => ?_, fun hidle p hp => ?_⟩
  · simp only [List.mem_cons, List.not_mem_nil, or_false] at hp
    obtain rfl | rfl | rfl := hp
    · exact hostAccess_read_wide (g := .srcAddr) rfl rfl rfl fun _ => readTarget_of_not_context s rfl
    · exact hostAccess_read_wide (g := .len) rfl rfl rfl fun _ => readTarget_of_not_context s rfl
    · exact hostAccess_read_wide (g := .faultAddr) rfl rfl rfl fun _ => readTarget_of_not_context s rfl
  · simp only [List.mem_cons, List.not_mem_nil, or_false] at hp
    obtain rfl | rfl := hp
    · exact hostAccess_read_wide (g := .cntLo) rfl rfl rfl fun _ => readTarget_of_idle hidle _
    · exact hostAccess_read_wide (g := .cntHi) rfl rfl rfl fun _ => readTarget_of_idle hidle _

/-! ### The BUF window -/

@[simp] theorem lanesBytes_length (n v : Nat) : (lanesBytes n v).length = n := by
  induction n generalizing v with
  | zero => rfl
  | succ n ih => simp [lanesBytes, ih]

/-- R48: the lanes of a value hold its low bits. -/
theorem lanesValue_lanesBytes (n v : Nat) : lanesValue (lanesBytes n v) = v % 2 ^ (8 * n) := by
  induction n generalizing v with
  | zero => simp [lanesBytes, lanesValue, Nat.mod_one]
  | succ n ih =>
    have hpow : 2 ^ (8 * (n + 1)) = 256 * 2 ^ (8 * n) := by rw [Nat.mul_succ, Nat.pow_add, Nat.mul_comm]
    rw [lanesBytes, lanesValue, ih, hpow, Nat.mod_mul, BitVec.toNat_ofNat]

/-- R13: the bytes just written to BUF are read there. -/
theorem bufBytes_bufWrite (buf : Vector Byte 128) {off : Nat} {bs : List Byte} (h : off + bs.length ≤ 128) :
    bufBytes (bufWrite buf off bs) off bs.length = bs := by
  refine List.ext_getElem (by simp [bufBytes]; omega) fun k hk hk' => ?_
  simp only [bufBytes, List.getElem_take, List.getElem_drop, Vector.getElem_toList]
  rw [bufWrite_getElem, if_pos (by omega), Nat.add_sub_cancel_left, List.getD_eq_getElem _ _ hk']

/-- R52: the supported accesses of the window, and the bytes of BUF they reach. -/
theorem target_window {off : BitVec 8} {n : Nat} (hoff : 0x80 ≤ off.toNat) (hn : n = 1 ∨ n = 4 ∨ n = 8)
    (halign : off.toNat % n = 0) : target off (8 * n) = some (.window (off.toNat - 0x80) n) := by
  rw [target, if_pos hoff, windowTarget, if_pos, Nat.mul_div_cancel_left n (by decide)]
  obtain rfl | rfl | rfl := hn
  · exact .inl rfl
  · exact .inr (.inl ⟨rfl, by omega⟩)
  · exact .inr (.inr ⟨rfl, by omega⟩)

/-- Settles O33: the write puts the lanes of `v` in BUF, and the read assembles the same bytes. -/
theorem windowReadAfterWrite : Obligations.WindowReadAfterWrite := by
  unfold Obligations.WindowReadAfterWrite
  intro s t u off n v hoff hn halign hidle hwrite hread
  have htarget := target_window hoff hn halign
  have hend : off.toNat - 0x80 + n ≤ 128 := by
    have hlt := off.isLt
    obtain rfl | rfl | rfl := hn <;> omega
  have hbytes := bufBytes_bufWrite s.buf (bs := lanesBytes n v.toNat) (by rwa [lanesBytes_length])
  rw [lanesBytes_length] at hbytes
  rw [hostAccess_writeIdle v htarget hidle] at hwrite
  obtain ⟨hbuf, hidle'⟩ : t.buf = bufWrite s.buf (off.toNat - 0x80) (lanesBytes n v.toNat) ∧ t.busy = false := by
    cases hwrite
    exact ⟨rfl, hidle⟩
  rw [hostAccess_read t htarget, readTarget_of_idle hidle', State.registerValue, hbuf, hbytes,
    lanesValue_lanesBytes] at hread
  cases hread
  rfl

end Sys2Proof.Machine
end

section
/-! PROOFS. The summary function, phase by phase: what is left of an UPDATE as each phase of the Engine finds it. -/

namespace Sys2Proof.Machine

/-! ### What came before -/

/-- A summary with the requests and the blocks that came before it. -/
def Summary.after (r : Summary) (reqs : List Request) (blocks : List Block) : Summary :=
  ⟨r.ctx, reqs ++ r.reqs, blocks ++ r.blocks⟩

@[simp] theorem Summary.after_after (r : Summary) (reqs reqs' : List Request) (blocks blocks' : List Block) :
    (r.after reqs blocks).after reqs' blocks' = r.after (reqs' ++ reqs) (blocks' ++ blocks) := by
  simp [Summary.after]

/-! ### BUF and blocks -/

/-- A write that covers BUF leaves its bytes. -/
theorem bufWrite_toList {buf : Vector Byte 128} {bs : List Byte} (h : bs.length = 128) :
    (bufWrite buf 0 bs).toList = bs := by
  refine List.ext_getElem (by simp [h]) fun k hk hk' => ?_
  rw [Vector.getElem_toList, bufWrite_getElem, if_pos (by omega)]
  simp [hk']

/-- Of two writes that cover BUF the second counts. -/
theorem bufWrite_bufWrite (buf : Vector Byte 128) (xs : List Byte) {ys : List Byte} (h : ys.length = 128) :
    bufWrite (bufWrite buf 0 xs) 0 ys = bufWrite buf 0 ys := by
  rw [← Vector.toList_inj, bufWrite_toList h, bufWrite_toList h]

/-- The first `k` blocks of a byte sequence lie in its first `128 * k` bytes. -/
theorem blocksOf_take {k n : Nat} (bs : List Byte) (h : 128 * k ≤ n) : blocksOf k (bs.take n) = blocksOf k bs := by
  induction k generalizing n bs with
  | zero => rfl
  | succ k ih =>
    rw [blocksOf, blocksOf, List.drop_take, ih _ (by omega), List.take_take, Nat.min_eq_left (by omega)]

/-! ### The bulk phase -/

/-- R92: the next block is as far from an 8-byte boundary as this one. -/
theorem copyPath_add_block (b : Build) (a : Nat) : copyPath b (a + 128) = copyPath b a := by
  simp only [copyPath, wordBytes, show (a + 128) % 8 = a % 8 by omega]

/-- R96: fewer than 128 bytes go straight to the stash. -/
theorem bulkFn_of_lt {rest : List Byte} (b : Build) (c : Context) (a : Nat) (h : rest.length < 128) :
    bulkFn b c rest a = ⟨stashFn c rest, [], []⟩ := by
  simp [bulkFn, Nat.div_eq_of_lt h]

/-- R93: the bulk phase on the copy path, `k` blocks and the one left in BUF. -/
theorem bulkFn_of_copyPath {b : Build} {rest : List Byte} {a k : Nat} (c : Context) (hk : rest.length / 128 = k + 1)
    (hpath : copyPath b a = true) :
    bulkFn b c rest a
      = ⟨stashFn { c with buf := bufWrite c.buf 0 ((rest.drop (128 * k)).take 128) } (rest.drop (128 * (k + 1))),
          List.replicate (k + 1) bufRequest, blocksOf (k + 1) rest⟩ := by
  simp [bulkFn, hk, hpath]

/-- R93: on the copy path the first block goes through BUF, and the rest is the bulk phase of what follows it. -/
theorem bulkFn_copy {b : Build} {rest : List Byte} {a : Nat} (c : Context) (h : 128 ≤ rest.length)
    (hpath : copyPath b a = true) :
    bulkFn b c rest a
      = (bulkFn b { c with buf := bufWrite c.buf 0 (rest.take 128) } (rest.drop 128) (a + 128)).after
          [bufRequest] [rest.take 128] := by
  obtain ⟨k, hk⟩ : ∃ k, rest.length / 128 = k + 1 := ⟨rest.length / 128 - 1, by omega⟩
  have hk' : (rest.drop 128).length / 128 = k := by rw [List.length_drop]; omega
  rw [bulkFn_of_copyPath c hk hpath]
  cases k with
  | zero => rw [bulkFn_of_lt b _ _ (by omega)]; rfl
  | succ k =>
    have hlast : ((rest.drop (128 * (k + 1))).take 128).length = 128 := by
      rw [List.length_take, List.length_drop]; omega
    have hdrop : ∀ j, (rest.drop 128).drop (128 * j) = rest.drop (128 * (j + 1)) := fun j => by
      rw [List.drop_drop, Nat.mul_succ, Nat.add_comm]
    rw [bulkFn_of_copyPath _ hk' ((copyPath_add_block b a).trans hpath), hdrop, hdrop, bufWrite_bufWrite _ _ hlast]
    rfl

/-- R94: on the direct path one request takes all full blocks. -/
theorem bulkFn_direct {b : Build} {rest : List Byte} {a : Nat} (c : Context) (h : 128 ≤ rest.length)
    (hpath : copyPath b a = false) :
    bulkFn b c rest a
      = (bulkFn b c (rest.drop (128 * (rest.length / 128))) (a + 128 * (rest.length / 128))).after
          [⟨.mem, BitVec.ofNat 64 a, BitVec.ofNat 64 (rest.length / 128)⟩] (blocksOf (rest.length / 128) rest) := by
  have hlt : (rest.drop (128 * (rest.length / 128))).length < 128 := by rw [List.length_drop]; omega
  have hk : rest.length / 128 ≠ 0 := by omega
  rw [bulkFn_of_lt b c _ hlt]
  simp only [bulkFn, if_neg hk, hpath]
  simp [Summary.after]

/-! ### The drain -/

/-- R88 to R96: an UPDATE from DRAIN on, after its counter step. -/
def drainFn (b : Build) (c : Context) (rest : List Byte) (a : Nat) : Summary :=
  if c.bufLen.toNat = 0 then bulkFn b c rest a
  else if rest.length < 128 - c.bufLen.toNat then
    ⟨{ c with
        buf := bufWrite c.buf c.bufLen.toNat rest
        bufLen := BitVec.ofNat 7 (c.bufLen.toNat + rest.length) }, [], []⟩
  else
    let full := bufWrite c.buf c.bufLen.toNat (rest.take (128 - c.bufLen.toNat))
    (bulkFn b { c with buf := full, bufLen := 0 } (rest.drop (128 - c.bufLen.toNat))
      (a + (128 - c.bufLen.toNat))).after [bufRequest] [full.toList]

/-- R88: with BUF empty the chunk goes straight to the bulk phase. -/
theorem drainFn_of_empty (b : Build) {c : Context} (rest : List Byte) (a : Nat) (h : c.bufLen.toNat = 0) :
    drainFn b c rest a = bulkFn b c rest a := if_pos h

/-- R89: the chunk ends inside the partial block. -/
theorem drainFn_of_lt (b : Build) {c : Context} {rest : List Byte} (a : Nat) (h : c.bufLen.toNat ≠ 0)
    (hlt : rest.length < 128 - c.bufLen.toNat) :
    drainFn b c rest a = ⟨{ c with
      buf := bufWrite c.buf c.bufLen.toNat rest
      bufLen := BitVec.ofNat 7 (c.bufLen.toNat + rest.length) }, [], []⟩ := by
  rw [drainFn, if_neg h, if_pos hlt]

/-- R90: the chunk fills the partial block. -/
theorem drainFn_of_ge (b : Build) {c : Context} {rest : List Byte} (a : Nat) (h : c.bufLen.toNat ≠ 0)
    (hge : 128 - c.bufLen.toNat ≤ rest.length) :
    drainFn b c rest a
      = (bulkFn b { c with buf := bufWrite c.buf c.bufLen.toNat (rest.take (128 - c.bufLen.toNat)), bufLen := 0 }
          (rest.drop (128 - c.bufLen.toNat)) (a + (128 - c.bufLen.toNat))).after
          [bufRequest] [(bufWrite c.buf c.bufLen.toNat (rest.take (128 - c.bufLen.toNat))).toList] := by
  rw [drainFn, if_neg h, if_neg (by omega)]

/-- R98: a whole UPDATE of a byte or more is its counter step and what follows. -/
theorem updateFn_eq_drainFn (b : Build) (c : Context) {chunk : List Byte} (a : Nat) (h : chunk ≠ []) :
    updateFn b c chunk a = drainFn b (countFn c chunk.length) chunk a := by
  simp only [updateFn, if_neg h]
  rfl

end Sys2Proof.Machine
end

section
/-! PROOFS. An UPDATE on course: its chunk can be read, and what it will leave is fixed from its start (O54). -/

namespace Sys2Proof.Machine

/-! ### The outcome of a running UPDATE -/

/-- What is left of the chunk: its last CUR_LEN bytes (R34). -/
def State.left (s : State) (chunk : List Byte) : List Byte := chunk.drop (chunk.length - s.curLen.toNat)

/-- R101, R103: the blocks of a request, when BUF and the bytes from the cursor on are these. -/
def Request.blocks (r : Request) (buf : Vector Byte 128) (rest : List Byte) : List Block :=
  match r.src with
  | .buf => [buf.toList]
  | .mem => blocksOf r.n.toNat rest

theorem Request.blocks_bufRequest (buf : Vector Byte 128) (rest : List Byte) :
    bufRequest.blocks buf rest = [buf.toList] := rfl

theorem Request.blocks_bulkRequest (s : State) (buf : Vector Byte 128) (rest : List Byte) :
    (bulkRequest s).blocks buf rest = blocksOf (s.curLen.toNat / 128) rest := by
  rw [← bulkRequest_n_toNat]
  rfl

/-- R94: the direct request, in the summary function's words. -/
theorem bulkRequest_eq (s : State) :
    bulkRequest s = ⟨.mem, BitVec.ofNat 64 s.curAddr.toNat, BitVec.ofNat 64 (s.curLen.toNat / 128)⟩ := by
  simp [bulkRequest]

/-- What the rest of an UPDATE in a phase leaves, issues and dispatches, when the bytes from the cursor on are `rest`.
The blocks of the outstanding request are still to come, the request itself is not. -/
def State.todo (s : State) (rest : List Byte) : Phase → Summary
  | .idle => ⟨s.context, [], []⟩
  | .count => updateFn s.build s.context rest s.curAddr.toNat
  | .drain => drainFn s.build s.context rest s.curAddr.toNat
  | .bulk => bulkFn s.build s.context rest s.curAddr.toNat
  | .stash => ⟨stashFn s.context rest, [], []⟩
  | .waitCmp r .drain => (bulkFn s.build s.context rest s.curAddr.toNat).after [] (r.blocks s.buf rest)
  | .waitCmp r .bulk =>
    (bulkFn s.build s.context (rest.drop (128 * r.n.toNat)) (s.curAddr.toNat + 128 * r.n.toNat)).after []
      (r.blocks s.buf rest)

/-- The context, the history and the stream that the UPDATE of `chunk` running in this state will have left when it
ends: what the turns of an undisturbed run do not change. -/
def State.outcome (s : State) (chunk : List Byte) : Summary :=
  (s.todo (s.left chunk) s.phase).after s.history s.absorbed

theorem State.outcome_of_phase {s : State} {p : Phase} (hp : s.phase = p) (chunk : List Byte) :
    s.outcome chunk = (s.todo (s.left chunk) p).after s.history s.absorbed := by
  rw [← hp, State.outcome]

/-- A request issued in DRAIN, with the bulk phase to come. -/
theorem State.outcome_issue_drain (s : State) (r : Request) (chunk : List Byte) :
    (s.issue r .drain).outcome chunk
      = (bulkFn s.build s.context (s.left chunk) s.curAddr.toNat).after (s.history ++ [r])
          (s.absorbed ++ r.blocks s.buf (s.left chunk)) :=
  (Summary.after_after ..).trans (congrArg (Summary.after _ · _) (List.append_nil _))

/-- A request issued in BULK, with the bytes behind its blocks to come. -/
theorem State.outcome_issue_bulk (s : State) (r : Request) (chunk : List Byte) :
    (s.issue r .bulk).outcome chunk
      = (bulkFn s.build s.context ((s.left chunk).drop (128 * r.n.toNat)) (s.curAddr.toNat + 128 * r.n.toNat)).after
          (s.history ++ [r]) (s.absorbed ++ r.blocks s.buf (s.left chunk)) :=
  (Summary.after_after ..).trans (congrArg (Summary.after _ · _) (List.append_nil _))

/-- What an undisturbed UPDATE meets in each phase. -/
def stageOk (s : State) : Prop :=
  match s.phase with
  | .count => s.curLen ≠ 0
  | .waitCmp r .drain => r = bufRequest ∧ s.bufLen = 0
  | .waitCmp r .bulk => 128 ≤ s.curLen.toNat ∧ (r = bufRequest ∨ r = bulkRequest s)
  | _ => True

/-- An UPDATE of `chunk` is on course: memory holds the chunk, no old value is kept of any byte of it, and the cursor is
in step. -/
structure State.OnCourse (s : State) (chunk : List Byte) : Prop where
  length : chunk.length = s.len.toNat
  readable : Memory.holds s.mem s.srcAddr.toNat chunk
  unraced : ∀ c ∈ s.raced, c.1 < s.srcAddr.toNat ∨ s.srcAddr.toNat + s.len.toNat ≤ c.1
  cursor : s.busy = true → cursorOk s ∧ s.curLen.toNat ≤ chunk.length
  stage : stageOk s

/-! ### Reading the chunk -/

theorem State.left_length {s : State} {chunk : List Byte} (h : s.curLen.toNat ≤ chunk.length) :
    (s.left chunk).length = s.curLen.toNat := by
  rw [State.left, List.length_drop]
  omega

theorem State.advance_curLen_toNat {s : State} {m : Nat} (hm : m ≤ s.curLen.toNat) :
    (s.advance m).curLen.toNat = s.curLen.toNat - m := by
  have hlt := s.curLen.isLt
  rw [State.advance_curLen, BitVec.toNat_sub, BitVec.toNat_ofNat]
  omega

/-- R34: after `m` bytes are consumed, what is left is what followed them. -/
theorem State.left_advance {s : State} {m : Nat} {chunk : List Byte} (hm : m ≤ s.curLen.toNat)
    (h : s.curLen.toNat ≤ chunk.length) : (s.advance m).left chunk = (s.left chunk).drop m := by
  rw [State.left, State.left, List.drop_drop, State.advance_curLen_toNat hm]
  congr 1
  omega

/-- R34: the cursor does not wrap inside the chunk. -/
theorem State.advance_curAddr_toNat {s : State} {m : Nat} (h : cursorOk s) (hm : m ≤ s.curLen.toNat) :
    (s.advance m).curAddr.toNat = s.curAddr.toNat + m := by
  obtain ⟨hsum, hlimit : _ ≤ 2 ^ 64⟩ := h
  rw [State.advance_curAddr, BitVec.toNat_add, BitVec.toNat_ofNat]
  omega

@[simp] theorem State.context_bufLen (s : State) : s.context.bufLen = s.bufLen := rfl

/-- R73: COUNT makes the summary function's counter step. -/
theorem engineCount_context (s : State) : (engineCount s).context = countFn s.context s.curLen.toNat := by
  simp [engineCount, State.context, countFn]

/-- The Engine never copies more than is left of the chunk. -/
theorem engineReads_le_curLen (s : State) : engineReads s ≤ s.curLen.toNat := by
  unfold engineReads
  cases s.phase with
  | drain => dsimp only; split <;> omega
  | bulk => dsimp only; split <;> omega
  | stash => exact le_rfl
  | idle | count | waitCmp => exact Nat.zero_le _

namespace State.OnCourse

variable {s : State} {chunk : List Byte}

/-- Every byte of the chunk reads as it stands in the chunk. -/
theorem busRead (h : s.OnCourse chunk) {i : Nat} (hi : i < chunk.length) :
    s.busRead (s.srcAddr.toNat + i) = some chunk[i] := by
  have hlen := h.length
  obtain ⟨old, hold, _⟩ | e := s.busRead_cases (s.srcAddr.toNat + i)
  · obtain ⟨c, hc, _⟩ := List.mem_map.mp hold
    obtain ⟨hmem, haddr⟩ := List.mem_filter.mp hc
    have := h.unraced c hmem
    have := of_decide_eq_true haddr
    omega
  · rw [e, h.readable i hi]

/-- R45: a read of what is left of the chunk, or of its beginning, succeeds. -/
theorem memRead (h : s.OnCourse chunk) (hbusy : s.busy = true) {n : Nat} (hn : n ≤ s.curLen.toNat) :
    s.memRead s.curAddr.toNat n = .bytes ((s.left chunk).take n) := by
  obtain ⟨⟨hsum, _⟩, hle⟩ := h.cursor hbusy
  have hlen := h.length
  have hn' : ((s.left chunk).take n).length = n := by rw [List.length_take, State.left_length hle]; omega
  have hread := State.memRead_of_busRead (s := s) (a := s.curAddr.toNat) (bs := (s.left chunk).take n) fun i hi => by
    have hpos : s.curAddr.toNat + i = s.srcAddr.toNat + (chunk.length - s.curLen.toNat + i) := by omega
    rw [hpos, h.busRead (by omega), List.getElem_take]
    simp [State.left]
  rwa [hn'] at hread

/-! ### The Engine and the Compressor -/

/-- The bytes the Engine's copy reads are the next ones of the chunk. -/
theorem eq_take_left (h : s.OnCourse chunk) (hbusy : s.busy = true) {bs : List Byte}
    (hread : s.memRead s.curAddr.toNat (engineReads s) = .bytes bs) : bs = (s.left chunk).take (engineReads s) := by
  rw [h.memRead hbusy (engineReads_le_curLen s)] at hread
  exact (ReadResult.bytes.inj hread).symm

/-- R97: no read of the Engine fails. -/
theorem memRead_ne_busError (h : s.OnCourse chunk) (hbusy : s.busy = true) (x : Nat) :
    s.memRead s.curAddr.toNat (engineReads s) ≠ .busError x := by
  rw [h.memRead hbusy (engineReads_le_curLen s)]
  nofun

/-- R34: the cursor stays in step when bytes of the chunk are consumed. -/
theorem cursor_advance (h : s.OnCourse chunk) (hbusy : s.busy = true) {m : Nat} (hm : m ≤ s.curLen.toNat) :
    cursorOk (s.advance m) ∧ (s.advance m).curLen.toNat ≤ chunk.length := by
  obtain ⟨hc, hle⟩ := h.cursor hbusy
  rw [State.advance_curLen_toNat hm]
  exact ⟨cursorOk_advance hc hm, by omega⟩

/-- Bytes are left as long as CUR_LEN is not 0. -/
theorem left_ne_nil (h : s.OnCourse chunk) (hbusy : s.busy = true) (hne : s.curLen ≠ 0) : s.left chunk ≠ [] := by
  rw [← List.length_pos_iff, State.left_length (h.cursor hbusy).2]
  exact Nat.pos_of_ne_zero fun h0 => hne (BitVec.eq_of_toNat_eq h0)

/-- R98: a step of the Engine stays on course, and does what was left to do. -/
theorem engineStep (h : s.OnCourse chunk) :
    (Machine.engineStep s).OnCourse chunk ∧ (Machine.engineStep s).outcome chunk = s.outcome chunk := by
  cases hbusy : s.busy with
  | false => rw [engineStep_of_idle hbusy]; exact ⟨h, rfl⟩
  | true =>
  obtain ⟨hc, hle⟩ := h.cursor hbusy
  have hleft := State.left_length hle
  have hstage := h.stage
  have held : s.bufLen ≠ 0 → s.context.bufLen.toNat ≠ 0 := fun hz h0 => hz (BitVec.eq_of_toNat_eq h0)
  obtain ⟨e, _⟩ | ⟨hp, e⟩ | ⟨hp, hz, e⟩ | ⟨x, hx, e⟩ | ⟨bs, hp, hz, hlt, er, hbs, e⟩ | ⟨bs, hp, hz, hge, er, hbs, e⟩ |
    ⟨hp, hlt, e⟩ | ⟨bs, hp, hge, hpath, er, hbs, e⟩ | ⟨hp, hge, hpath, e⟩ | ⟨hp, hz, e⟩ | ⟨bs, hp, hz, er, hbs, e⟩ :=
      engineStep_cases s
  case inr.inr.inr.inl => exact absurd hx (h.memRead_ne_busError hbusy x)
  case inl => rw [e]; exact ⟨h, rfl⟩
  all_goals rw [e, State.outcome_of_phase hp]
  · -- COUNT
    refine ⟨⟨h.length, h.readable, h.unraced, fun _ => ⟨hc, hle⟩, trivial⟩, ?_⟩
    rw [stageOk, hp] at hstage
    have hne : s.left chunk ≠ [] := h.left_ne_nil hbusy hstage
    rw [State.todo, updateFn_eq_drainFn _ _ _ hne, hleft]
    exact congrArg (fun c => (drainFn s.build c (s.left chunk) s.curAddr.toNat).after s.history s.absorbed)
      (engineCount_context s)
  · -- DRAIN of an empty buffer
    refine ⟨⟨h.length, h.readable, h.unraced, fun _ => ⟨hc, hle⟩, trivial⟩, ?_⟩
    rw [State.todo, drainFn_of_empty _ _ _ (by simp [State.context, hz])]
    rfl
  · -- DRAIN of a chunk that ends inside the partial block
    refine ⟨⟨h.length, h.readable, by simp, by simp, trivial⟩, ?_⟩
    obtain rfl := h.eq_take_left hbusy hbs
    rw [State.todo, drainFn_of_lt _ _ (held hz) (hleft ▸ hlt), er, ← hleft, List.take_length]
    rfl
  · -- DRAIN that fills the block
    obtain rfl := h.eq_take_left hbusy hbs
    refine ⟨⟨h.length, h.readable, h.unraced, fun _ => h.cursor_advance hbusy hge, rfl, rfl⟩, ?_⟩
    rw [State.todo, drainFn_of_ge _ _ (held hz) (hleft ▸ hge), er, State.outcome_issue_drain, Summary.after_after,
      State.context_bufLen, ← State.left_advance hge hle, ← State.advance_curAddr_toNat hc hge]
    rfl
  · -- BULK goes on to STASH
    refine ⟨⟨h.length, h.readable, h.unraced, fun _ => ⟨hc, hle⟩, trivial⟩, ?_⟩
    rw [State.todo, bulkFn_of_lt _ _ _ (hleft ▸ hlt)]
    rfl
  · -- BULK on the copy path
    obtain rfl := h.eq_take_left hbusy hbs
    have hblock : ((s.left chunk).take 128).length = 128 := by rw [List.length_take]; omega
    refine ⟨⟨h.length, h.readable, h.unraced, fun _ => ⟨hc, hle⟩, hge, .inl rfl⟩, ?_⟩
    rw [State.todo, bulkFn_copy _ (hleft ▸ hge) hpath, er, State.outcome_issue_bulk, Summary.after_after,
      Request.blocks_bufRequest, bufWrite_toList hblock]
    rfl
  · -- BULK on the direct path
    refine ⟨⟨h.length, h.readable, h.unraced, fun _ => ⟨hc, hle⟩, hge, .inr rfl⟩, ?_⟩
    rw [State.todo, bulkFn_direct _ (hleft ▸ hge) hpath, State.outcome_issue_bulk, Summary.after_after,
      Request.blocks_bulkRequest, bulkRequest_n_toNat, hleft, bulkRequest_eq]
  · -- STASH with nothing left
    refine ⟨⟨h.length, h.readable, by simp, by simp, trivial⟩, ?_⟩
    have hnil : s.left chunk = [] := by rw [← List.length_eq_zero_iff, hleft, hz]; rfl
    rw [State.todo, hnil]
    rfl
  · -- STASH of a remainder
    refine ⟨⟨h.length, h.readable, by simp, by simp, trivial⟩, ?_⟩
    obtain rfl := h.eq_take_left hbusy hbs
    have hne : s.left chunk ≠ [] := h.left_ne_nil hbusy hz
    rw [State.todo, stashFn, if_neg hne, er, ← hleft, List.take_length]
    rfl

end State.OnCourse

end Sys2Proof.Machine
end

section
/-! PROOFS. Undisturbed runs of an UPDATE, turn by turn (O54). -/

namespace Sys2Proof.Machine

namespace State.OnCourse

variable {s : State} {chunk : List Byte}

/-- R101, R103: on course the Compressor can read every block of the outstanding request. -/
theorem requestBlocks (h : s.OnCourse chunk) {r : Request} {back : Resume} (hp : s.phase = .waitCmp r back) :
    s.requestBlocks r = some (r.blocks s.buf (s.left chunk)) := by
  have hbusy : s.busy = true := by simp [State.busy, hp]
  have hstage := h.stage
  rw [stageOk, hp] at hstage
  have hor : r = bufRequest ∨ (r = bulkRequest s ∧ 128 ≤ s.curLen.toNat) := by
    cases back with
    | drain => exact .inl hstage.1
    | bulk => exact hstage.2.imp_right (⟨·, hstage.1⟩)
  obtain rfl | ⟨rfl, hge⟩ := hor
  · rfl
  · -- bytes are left below 2^64, so the request's address is the cursor
    obtain ⟨⟨hsum, hlimit : _ ≤ 2 ^ 64⟩, _⟩ := h.cursor hbusy
    have haddr : (bulkRequest s).addr.toNat = s.curAddr.toNat := by
      simp only [bulkRequest, BitVec.toNat_setWidth]
      omega
    have hn := bulkRequest_n_toNat s
    have hread := h.memRead hbusy (n := 128 * (bulkRequest s).n.toNat) (by omega)
    rw [← haddr] at hread
    rw [State.requestBlocks, show (bulkRequest s).src = .mem from rfl]
    dsimp only
    rw [hread]
    exact congrArg some (blocksOf_take _ le_rfl)

/-- R99: an acknowledgement stays on course, and absorbs what was left to absorb. -/
theorem acknowledge (h : s.OnCourse chunk) :
    (Machine.acknowledge s).OnCourse chunk ∧ (Machine.acknowledge s).outcome chunk = s.outcome chunk := by
  obtain ⟨r, back, bs, hp, hbs, e⟩ | e := acknowledge_cases s
  case inr => rw [e]; exact ⟨h, rfl⟩
  rw [h.requestBlocks hp] at hbs
  obtain rfl := Option.some.inj hbs
  have hbusy : s.busy = true := by simp [State.busy, hp]
  obtain ⟨hc, hle⟩ := h.cursor hbusy
  have hstage := h.stage
  rw [stageOk, hp] at hstage
  rw [e, State.outcome_of_phase hp]
  cases back with
  | drain =>
    refine ⟨⟨h.length, h.readable, h.unraced, fun _ => ⟨hc, hle⟩, trivial⟩, ?_⟩
    have hempty : s.context.bufLen.toNat = 0 := congrArg BitVec.toNat hstage.2
    rw [State.todo, Summary.after_after, List.append_nil, ← drainFn_of_empty _ _ _ hempty]
    rfl
  | bulk =>
    have hn : 128 * r.n.toNat ≤ s.curLen.toNat := by
      obtain ⟨hge, rfl | rfl⟩ := hstage
      · exact hge
      · rw [bulkRequest_n_toNat]; omega
    refine ⟨⟨h.length, h.readable, h.unraced, fun _ => h.cursor_advance hbusy hn, trivial⟩, ?_⟩
    rw [State.todo, Summary.after_after, List.append_nil, ← State.left_advance hn hle,
      ← State.advance_curAddr_toNat hc hn]
    rfl

end State.OnCourse

/-! ### What an undisturbed run keeps -/

/-- What holds of a state that an undisturbed run reaches from another: the UPDATE is on course to the same outcome, the
operands and FAULT_ADDR are as they were, no error bit but ERR_BUSY is new, and while the Host only reads neither the
error bits nor memory change. -/
structure Follows (chunk : List Byte) (s t : State) : Prop where
  onCourse : t.OnCourse chunk
  outcome : t.outcome chunk = s.outcome chunk
  srcAddr : t.srcAddr = s.srcAddr
  len : t.len = s.len
  faultAddr : t.faultAddr = s.faultAddr
  errs : ∀ e : Err, e ≠ .busy → t.errs.get e = true → s.errs.get e = true
  prog : t.hostProg <:+ s.hostProg
  reads : (∀ op ∈ s.hostProg, op.onlyReads = true) → t.errs = s.errs ∧ t.mem = s.mem

namespace Follows

variable {chunk : List Byte} {s t u : State}

theorem refl (h : s.OnCourse chunk) : Follows chunk s s :=
  ⟨h, rfl, rfl, rfl, rfl, fun _ _ => id, List.suffix_rfl, fun _ => ⟨rfl, rfl⟩⟩

theorem trans (h : Follows chunk s t) (h' : Follows chunk t u) : Follows chunk s u where
  onCourse := h'.onCourse
  outcome := h'.outcome.trans h.outcome
  srcAddr := h'.srcAddr.trans h.srcAddr
  len := h'.len.trans h.len
  faultAddr := h'.faultAddr.trans h.faultAddr
  errs e he := h.errs e he ∘ h'.errs e he
  prog := h'.prog.trans h.prog
  reads hr :=
    have ⟨he, hm⟩ := h.reads hr
    have ⟨he', hm'⟩ := h'.reads fun op hop => hr op (h.prog.subset hop)
    ⟨he'.trans he, hm'.trans hm⟩

theorem engine (h : s.OnCourse chunk) : Follows chunk s (engineStep s) := by
  obtain ⟨hcourse, hout⟩ := h.engineStep
  have hkept : (engineStep s).errs = s.errs ∧ (engineStep s).faultAddr = s.faultAddr := by
    cases hbusy : s.busy with
    | false => rw [engineStep_of_idle hbusy]; exact ⟨rfl, rfl⟩
    | true => exact (engineStep_errs_or_abort s).resolve_right fun ⟨x, hx, _⟩ => h.memRead_ne_busError hbusy x hx
  obtain ⟨herrs, hfault⟩ := hkept
  exact ⟨hcourse, hout, engineStep_srcAddr s, engineStep_len s, hfault, fun _ _ he => herrs ▸ he,
    engineStep_hostProg s ▸ List.suffix_rfl, fun _ => ⟨herrs, engineStep_mem s⟩⟩

theorem compressor (h : s.OnCourse chunk) : Follows chunk s (acknowledge s) := by
  obtain ⟨hcourse, hout⟩ := h.acknowledge
  exact ⟨hcourse, hout, acknowledge_srcAddr s, acknowledge_len s, acknowledge_faultAddr s,
    fun _ _ he => acknowledge_errs s ▸ he, acknowledge_hostProg s ▸ List.suffix_rfl,
    fun _ => ⟨acknowledge_errs s, acknowledge_mem s⟩⟩

/-- R57: the schedule and the step counter do not matter. -/
theorem tick (h : s.OnCourse chunk) (rest : List Agent) : Follows chunk s (s.tick rest) :=
  ⟨⟨h.length, h.readable, h.unraced, h.cursor, h.stage⟩, rfl, rfl, rfl, rfl, fun _ _ => id, List.suffix_rfl,
    fun _ => ⟨rfl, rfl⟩⟩

/-- A turn of the Host that writes at most its program, its last answer, the error bits and their record. -/
theorem of_host {rest : List HostOp} {resp : Option BusResp} {errs cleared : Errors} (h : s.OnCourse chunk)
    (hprog : rest <:+ s.hostProg) (herrs : ∀ e : Err, e ≠ .busy → errs.get e = true → s.errs.get e = true)
    (hreads : (∀ op ∈ s.hostProg, op.onlyReads = true) → errs = s.errs) :
    Follows chunk s { s with hostProg := rest, resp := resp, errs := errs, cleared := cleared } :=
  ⟨⟨h.length, h.readable, h.unraced, h.cursor, h.stage⟩, rfl, rfl, rfl, rfl, herrs, hprog, fun hr => ⟨hreads hr, rfl⟩⟩

/-- A turn of the Host that only reads. -/
theorem of_host_read {rest : List HostOp} {resp : Option BusResp} (h : s.OnCourse chunk) (hprog : rest <:+ s.hostProg) :
    Follows chunk s { s with hostProg := rest, resp := resp } :=
  of_host h hprog (fun _ _ => id) fun _ => rfl

end Follows

/-! ### An undisturbing turn of the Host -/

/-- An undisturbing register access is a read, or is made while BUSY. -/
theorem State.hostUndisturbing.access {s : State} {op : HostOp} {rest : List HostOp} {a : HostAccess}
    (h : s.hostUndisturbing) (hop : s.hostProg = op :: rest) (hacc : op.registerAccess s.baseAddress = some a) :
    a.data = none ∨ s.busy = true := by
  rw [State.hostUndisturbing, hop] at h
  cases op with
  | access | bus => exact h a hacc
  | poll | memWrite => cases hacc

/-- An undisturbing memory write does not touch the chunk. -/
theorem State.hostUndisturbing.memWrite {s : State} {x : Nat} {bs : List Byte} {rest : List HostOp}
    (h : s.hostUndisturbing) (hop : s.hostProg = .memWrite x bs :: rest) :
    x + bs.length ≤ s.srcAddr.toNat ∨ s.srcAddr.toNat + s.len.toNat ≤ x := by
  rwa [State.hostUndisturbing, hop] at h

/-- A statement that makes a register access only reads exactly when the access is a read. -/
theorem HostOp.onlyReads_of_registerAccess {op : HostOp} {base : Word} {a : HostAccess}
    (h : op.registerAccess base = some a) : op.onlyReads = a.data.isNone := by
  cases op with
  | access => cases h; rfl
  | bus addr width data =>
    obtain ⟨off, _, rfl⟩ := Option.map_eq_some_iff.mp h
    rfl
  | poll | memWrite => cases h

/-- The old values that a memory write keeps are those of the addresses it writes. -/
theorem Memory.mem_cellsAt {m : Memory} {a n : Nat} {c : Host.Cell} (h : c ∈ Memory.cellsAt m a n) :
    a ≤ c.1 ∧ c.1 < a + n := by
  induction n generalizing a with
  | zero => cases h
  | succ n ih =>
    rw [Memory.cellsAt] at h
    split at h
    · obtain rfl | h := List.mem_cons.mp h
      · exact ⟨le_rfl, by omega⟩
      · have := ih h
        omega
    · have := ih h
      omega

namespace Follows

variable {chunk : List Byte} {s t : State}

/-- A register access while BUSY, or a read. -/
theorem hostAccess (h : s.OnCourse chunk) {op : HostOp} {rest : List HostOp} {a : HostAccess}
    (hop : s.hostProg = op :: rest) (hacc : op.registerAccess s.baseAddress = some a)
    (hquiet : a.data = none ∨ s.busy = true) (ht : Machine.hostAccess a { s with hostProg := rest } = .next t) :
    Follows chunk s t := by
  have hprog : rest <:+ s.hostProg := hop ▸ List.suffix_cons op rest
  obtain ⟨_, e⟩ | ⟨_, _, _, e⟩ | ⟨g, v, _, hd, _, e⟩ | ⟨_, _, _, hd, hb, _⟩ :=
    hostAccess_cases a { s with hostProg := rest }
  · cases e.symm.trans ht
    exact of_host_read h hprog
  · cases e.symm.trans ht
    exact of_host_read h hprog
  · have hwrites : (∀ op ∈ s.hostProg, op.onlyReads = true) → False := fun hr => by
      have := hr op (hop ▸ List.mem_cons_self)
      rw [HostOp.onlyReads_of_registerAccess hacc, hd] at this
      cases this
    cases e.symm.trans ht
    obtain ⟨_, e'⟩ | ⟨_, e'⟩ := writeBusy_cases g v (State.respond { s with hostProg := rest } .written)
    · rw [e']
      exact of_host h hprog (fun e _ he => (Bool.and_eq_true_iff.mp ((Errors.get_clearBits ..).symm.trans he)).1)
        fun hr => (hwrites hr).elim
    · rw [e']
      exact of_host h hprog (fun e hne he => by simpa [hne] using he) fun hr => (hwrites hr).elim
  · obtain hn | hb' := hquiet
    · cases hn.symm.trans hd
    · cases hb.symm.trans hb'

/-- R160: a memory write outside the chunk. -/
theorem hostMemWrite (h : s.OnCourse chunk) {x : Nat} {bs : List Byte} {rest : List HostOp}
    (hop : s.hostProg = .memWrite x bs :: rest)
    (hout : x + bs.length ≤ s.srcAddr.toNat ∨ s.srcAddr.toNat + s.len.toNat ≤ x)
    (ht : Machine.hostMemWrite x bs { s with hostProg := rest } = .next t) : Follows chunk s t := by
  have hlen := h.length
  unfold Machine.hostMemWrite at ht
  split at ht
  case isFalse => cases ht
  cases ht
  refine ⟨⟨h.length, fun i hi => ?_, fun c hc => ?_, h.cursor, h.stage⟩, rfl, rfl, rfl, rfl, fun _ _ => id,
    hop ▸ List.suffix_cons _ rest, fun hr => ?_⟩
  · dsimp only
    rw [Memory.read_writeBytes, if_neg (by omega), h.readable i hi]
  · dsimp only at hc ⊢
    split at hc
    · obtain hc | hc := List.mem_append.mp hc
      · exact h.unraced c hc
      · have := Memory.mem_cellsAt hc
        omega
    · exact h.unraced c hc
  · exact absurd (hr _ (hop ▸ List.mem_cons_self)) (by simp [HostOp.onlyReads])

/-- A POLL. -/
theorem hostPoll (h : s.OnCourse chunk) {off : BitVec 8} {hi lo value : Nat} {rest : List HostOp}
    (hprog : rest <:+ s.hostProg) : Follows chunk s (Machine.hostPoll off hi lo value rest s) := by
  unfold Machine.hostPoll
  split
  · exact of_host_read h List.suffix_rfl
  · dsimp only
    split
    · exact of_host_read h hprog
    · exact of_host_read h List.suffix_rfl

/-- R57: an undisturbing turn of the Host. -/
theorem host (h : s.OnCourse chunk) (hu : s.hostUndisturbing) (ht : hostStep s = .next t) : Follows chunk s t := by
  obtain ⟨_, e⟩ | ⟨op, rest, a, hop, hacc, e⟩ | ⟨_, _, _, rest, hop, _, e⟩ | ⟨_, _, _, _, rest, hop, e⟩ |
    ⟨x, bs, rest, hop, e⟩ := hostStep_cases s
  · cases e.symm.trans ht
    exact refl h
  · exact hostAccess h hop hacc (hu.access hop hacc) (e.symm.trans ht)
  · cases e.symm.trans ht
    exact of_host_read h (hop ▸ List.suffix_cons _ rest)
  · cases e.symm.trans ht
    exact hostPoll h (hop ▸ List.suffix_cons _ rest)
  · exact hostMemWrite h hop (hu.memWrite hop) (e.symm.trans ht)

/-- R57: an undisturbing turn of an agent other than Reset. -/
theorem agentStep {a : Agent} (h : s.OnCourse chunk) (hreset : a ≠ .reset) (hu : a = .host → s.hostUndisturbing)
    (ht : Machine.agentStep a s = .next t) : Follows chunk s t := by
  cases a with
  | host => exact host h (hu rfl) ht
  | engine => cases ht; exact engine h
  | compressor => cases ht; exact compressor h
  | reset => exact absurd rfl hreset

end Follows

/-! ### Runs -/

/-- R57: no agent writes the schedule. -/
theorem agentStep_sched {a : Agent} {s t : State} (h : agentStep a s = .next t) : t.sched = s.sched := by
  obtain ⟨_, ht⟩ | ⟨_, rfl⟩ | ⟨_, rfl⟩ | ⟨_, rfl⟩ := agentStep_cases h
  · cases ht <;> rfl
  · rw [engineStep_frame]
  · rw [acknowledge_frame]
  · rfl

/-- The turns of a schedule, none of Reset and the Host's undisturbing, follow the UPDATE's course. -/
theorem Follows.run {chunk : List Byte} {agents : List Agent} {s t : State} (h : s.OnCourse chunk)
    (hsched : s.sched = agents)
    (hu : ∀ k u, k < agents.length → Host.Core.run core k s = .next u →
      u.sched.head? ≠ some .reset ∧ (u.sched.head? = some .host → u.hostUndisturbing))
    (hrun : Host.Core.run core agents.length s = .next t) : Follows chunk s t := by
  induction agents generalizing s with
  | nil => cases hrun; exact .refl h
  | cons a agents ih =>
    obtain ⟨u, hstep, hrest⟩ := run_succ.mp hrun
    obtain ⟨hreset, hhost⟩ := hu 0 s (Nat.zero_lt_succ _) rfl
    have hturn := hstep
    rw [step_eq_agentStep, hsched] at hturn
    rw [hsched] at hreset hhost
    have hfirst : Follows chunk s u :=
      (Follows.tick h agents).trans (.agentStep (Follows.tick h agents).onCourse (fun ha => hreset (congrArg some ha))
        (fun ha => hhost (congrArg some ha)) hturn)
    refine hfirst.trans (ih hfirst.onCourse (agentStep_sched hturn) (fun k v hk hv => ?_) hrest)
    exact hu (k + 1) v (Nat.succ_lt_succ hk) (run_succ.mpr ⟨u, hstep, hv⟩)

/-! ### Acceptance -/

/-- In IDLE the outcome is what stands in the state. -/
theorem State.outcome_of_idle {s : State} (h : s.phase = .idle) (chunk : List Byte) :
    s.outcome chunk = ⟨s.context, s.history, s.absorbed⟩ := by
  rw [State.outcome_of_phase h, State.todo, Summary.after, List.append_nil, List.append_nil]

/-- R84 to R87: the Host's UPDATE word is accepted, and the UPDATE is on course to what the summary function
computes. -/
theorem UpdateReady.accept {s : State} {chunk : List Byte} {agents : List Agent} (h : UpdateReady s chunk)
    (hsched : s.sched = .host :: agents) :
    ∃ (p : Phase) (a : BitVec 65) (n : Word) (u : State),
      u = { s with
        sched := agents, hostProg := s.hostProg.tail, draws := s.draws + 1, resp := some .written, phase := p
        curAddr := a, curLen := n } ∧
      step s = .next u ∧ u.OnCourse chunk ∧
      u.outcome chunk = (updateFn s.build s.context chunk s.srcAddr.toNat).after s.history s.absorbed := by
  have hidle : s.busy = false := s.busy_eq_false_iff.mpr h.idle
  have hprog : s.hostProg = wr32 0x10 (encode .update) :: s.hostProg.tail := List.eq_cons_of_mem_head? h.next
  have hstep := stepRunsTheDecodedCommand.2 s agents _ (encode .update) .update hsched hprog hidle (by decide)
  have hunraced : ∀ c ∈ s.raced, c.1 < s.srcAddr.toNat ∨ s.srcAddr.toNat + s.len.toNat ≤ c.1 := by simp [h.quiet]
  obtain ⟨hb, _⟩ | ⟨_, _, hz, e⟩ | ⟨_, _, hne, _, e⟩ | ⟨_, _, _, hgt, _⟩ | ⟨hi, _⟩ :=
    exec_cases .update { s with
      sched := agents, hostProg := s.hostProg.tail, draws := s.draws + 1, resp := some .written }
  · exact absurd (hidle.symm.trans hb) (by decide)
  · -- LEN = 0: nothing to do
    refine ⟨s.phase, s.curAddr, s.curLen, _, rfl, hstep.trans e, ?_, ?_⟩
    · exact ⟨h.length, h.readable, hunraced, fun hb => absurd (hidle.symm.trans hb) (by decide),
        by simp [stageOk, h.idle]⟩
    · have hnil : chunk = [] := List.eq_nil_of_length_eq_zero (h.length.trans (congrArg BitVec.toNat hz))
      refine (State.outcome_of_idle ?_ chunk).trans ?_
      · exact h.idle
      · simp [hnil, updateFn, Summary.after, State.context]
  · -- the operands are latched, and the whole chunk is left
    have hsrc : (s.srcAddr.setWidth 65).toNat = s.srcAddr.toNat := by
      have hlt := s.srcAddr.isLt
      simp only [BitVec.toNat_setWidth]
      omega
    refine ⟨.count, s.srcAddr.setWidth 65, s.len, _, rfl, hstep.trans e, ?_, ?_⟩
    · exact ⟨h.length, h.readable, hunraced,
        fun _ => ⟨⟨congrArg (· + s.len.toNat) hsrc, h.range⟩, h.length.ge⟩, hne⟩
    · have hleft : chunk.drop (chunk.length - s.len.toNat) = chunk := by rw [h.length, Nat.sub_self, List.drop_zero]
      rw [State.outcome_of_phase (p := .count) rfl, State.todo, State.left, hleft, ← hsrc]
      rfl
  · exact absurd h.range (Nat.not_le.mpr hgt)
  · cases hi

/-- Settles O54: acceptance puts the UPDATE on course to what the summary function computes, every undisturbing turn
keeps the outcome, and in IDLE the outcome is what the state holds. -/
theorem updateRunMatchesSummary : Obligations.UpdateRunMatchesSummary := by
  unfold Obligations.UpdateRunMatchesSummary
  intro s t chunk agents hready hsched hundisturbed hrun hidle r
  obtain ⟨p, a, n, u, hu, hstep, hcourse, hout⟩ := hready.accept hsched
  obtain ⟨_, hstep', hrest⟩ := run_succ.mp hrun
  cases hstep.symm.trans hstep'
  have hf : Follows chunk u t := .run hcourse (by rw [hu])
    (fun k v hk hv => hundisturbed (k + 1) v (Nat.le_add_left 1 k) hk (run_succ.mpr ⟨u, hstep, hv⟩)) hrest
  have hsummary := (State.outcome_of_idle hidle chunk).symm.trans (hf.outcome.trans hout)
  rw [Summary.after, Summary.mk.injEq] at hsummary
  obtain ⟨hctx, hhistory, habsorbed⟩ := hsummary
  subst hu
  exact ⟨hctx, hhistory, habsorbed, hf.srcAddr, hf.len, hf.faultAddr,
    congrArg BitVec.toNat hf.srcAddr ▸ hf.onCourse.readable, hf.errs, hf.reads⟩

end Sys2Proof.Machine
end

section
/-! PROOFS. The command word, its write to CMD, and the POLL of a register (O1, O3, O41). -/

namespace Sys2Proof

/-! ### The command word -/

/-- R62: the number of a command's word is its opcode. -/
theorem encode_toNat (i : Instr) : (encode i).toNat = (opcode i).toNat := by
  cases i <;> rfl

/-- R62: RSV and OP are the whole word, so a word with RSV = 0 and a command's opcode is that command's word. -/
theorem eq_encode_iff (w : Word32) (i : Instr) : w = encode i ↔ rsvField w = 0#24 ∧ opField w = opcode i := by
  constructor
  · rintro rfl
    cases i <;> decide
  · rintro ⟨hrsv, hop⟩
    have hw := w.isLt
    have hhigh : w.toNat / 2 ^ 8 % 2 ^ 24 = 0 := by
      simpa [rsvField, BitVec.extractLsb'_toNat, Nat.shiftRight_eq_div_pow] using congrArg BitVec.toNat hrsv
    have hlow : (opField w).toNat = w.toNat % 2 ^ 8 := by simp [opField]
    apply BitVec.eq_of_toNat_eq
    rw [encode_toNat, ← hop, hlow]
    omega

/-- R62 to R64: the decoder answers a command exactly for that command's word. -/
theorem decode_eq_command_iff (w : Word32) (i : Instr) : decode w = .command i ↔ w = encode i := by
  rw [eq_encode_iff, decode]
  by_cases hrsv : rsvField w = 0#24
  · by_cases hupdate : opField w = 0x01#8
    · cases i <;> simp [hrsv, hupdate, opcode]
    · by_cases hclear : opField w = 0x02#8 <;> cases i <;> simp [hrsv, hupdate, hclear, opcode]
  · simp [hrsv]

end Sys2Proof

namespace Sys2Proof.Machine

/-- Settles O1: the two legal words are the commands' own; the src codes are those of `Src.buf` and `Src.mem`. -/
theorem commandWordsDecode : Obligations.CommandWordsDecode := by
  unfold Obligations.CommandWordsDecode
  have hupdate := (decode_eq_command_iff 0x00000001#32 .update).mpr rfl
  have hclear := (decode_eq_command_iff 0x00000002#32 .clear).mpr rfl
  exact ⟨hupdate, hclear, by decide, by decide, by decide, by decide, rfl, fun _ => rfl⟩

/-! ### A write to CMD -/

/-- R115, R121: a supported write while BUSY is the dropped write of its target, or the write to STATUS. -/
theorem hostAccess_writeBusy {off : BitVec 8} {width : Nat} {g : Target} {s : State} (v : Word)
    (hg : target off width = some g) (hbusy : s.busy = true) :
    hostAccess ⟨off, width, some v⟩ s = .next (writeBusy g v (s.respond .written)) := by
  simp [hostAccess, hg, hbusy]

/-- R113: a word that is no command's, written to CMD while idle, only raises ERR_CMD. -/
theorem hostAccess_illegal {w : Word32} {s : State} (hidle : s.busy = false) (hw : ∀ i, w ≠ encode i) :
    hostAccess ⟨0x10, 32, some (w.setWidth 64)⟩ s = .next ((s.respond .written).raise .cmd) := by
  have hw' : (w.setWidth 64).setWidth 32 = w := by simp
  rw [hostAccess_writeIdle (g := .cmd) _ rfl hidle, writeIdle, hw']
  obtain ⟨i, hi, _⟩ | ⟨_, _, hsubmit⟩ := submit_cases w (s.respond .written)
  · exact absurd ((decode_eq_command_iff w i).mp hi) (hw i)
  · exact hsubmit

/-- Settles O3: while idle the commands' words are 1 and 2, and every other word is illegal. -/
theorem cmdWriteDecodesTheWord : Obligations.CmdWriteDecodesTheWord := by
  unfold Obligations.CmdWriteDecodesTheWord
  intro w s
  have hupdate : w.toNat = 1 ↔ w = encode .update := BitVec.toNat_inj (y := encode .update)
  have hclear : w.toNat = 2 ↔ w = encode .clear := BitVec.toNat_inj (y := encode .clear)
  refine ⟨fun hbusy => hostAccess_writeBusy (g := .cmd) _ rfl hbusy, fun hidle => ?_, ?_⟩
  · split_ifs with h1 h2
    · exact hostAccess_command hidle ((decode_eq_command_iff w .update).mpr (hupdate.mp h1))
    · exact hostAccess_command hidle ((decode_eq_command_iff w .clear).mpr (hclear.mp h2))
    · refine hostAccess_illegal hidle fun i => ?_
      cases i with
      | update => exact fun h => h1 (hupdate.mpr h)
      | clear => exact fun h => h2 (hclear.mpr h)
  · rw [hostAccess_read s (g := .cmd) rfl, readTarget_of_not_context s rfl]
    rfl

/-! ### POLL -/

/-- R70: one read of a POLL of a register; only the Host's program and its last answer change. -/
theorem hostPoll_of_target {off : BitVec 8} {t : Target} (hi lo value : Nat) (rest : List HostOp) (s : State)
    (ht : target off 32 = some t) :
    hostPoll off hi lo value rest s = { s with
      resp := some (.data 32 (s.readTarget t 32))
      hostProg := if fieldOf (s.readTarget t 32) hi lo = value then rest else s.hostProg } := by
  by_cases hv : fieldOf (s.readTarget t 32) hi lo = value <;> simp [hostPoll, ht, hv, State.respond]

/-- Settles O41: the Host's turn is one read of the POLL. -/
theorem pollRepeatsUntilEqual : Obligations.PollRepeatsUntilEqual := by
  unfold Obligations.PollRepeatsUntilEqual
  intro s off hi lo value rest t hprog ht
  have hturn : agentStep .host s = .next (hostPoll off hi lo value rest s) := by simp [agentStep, hostStep, hprog]
  rw [hturn, hostPoll_of_target hi lo value rest s ht]
  rfl

end Sys2Proof.Machine
end

section
/-! PROOFS. The 128-bit bit counter: its step in natural numbers, and that only COUNT makes it (O4, O5, O6, O7). -/

namespace Sys2Proof.Machine

/-! ### The counter step in natural numbers -/

/-- R74: `n << 3` in 64 bits. -/
theorem shiftLeft_three_toNat (n : Word) : (n <<< 3).toNat = n.toNat * 8 % 2 ^ 64 := by
  rw [BitVec.toNat_shiftLeft, Nat.shiftLeft_eq]

/-- R74: the new low word. -/
theorem counterLow_toNat (lo n : Word) : (counterLow lo n).toNat = (lo.toNat + n.toNat * 8 % 2 ^ 64) % 2 ^ 64 := by
  rw [counterLow, BitVec.toNat_add, shiftLeft_three_toNat]

/-- R75: the new low word is less than the old exactly when the addition passed `2^64`. -/
theorem counterLow_lt_iff (lo n : Word) : counterLow lo n < lo ↔ 2 ^ 64 ≤ lo.toNat + n.toNat * 8 % 2 ^ 64 := by
  have hlo := lo.isLt
  rw [BitVec.lt_def, counterLow_toNat]
  omega

/-- R75: the carry is the quotient of the low word's addition by `2^64`. -/
theorem counterCarry_toNat (lo n : Word) : (counterCarry lo n).toNat = (lo.toNat + n.toNat * 8 % 2 ^ 64) / 2 ^ 64 := by
  have hlo := lo.isLt
  by_cases h : counterLow lo n < lo
  · have hwrap := (counterLow_lt_iff lo n).mp h
    rw [show counterCarry lo n = 1#64 from if_pos h, BitVec.toNat_ofNat]
    omega
  · have hfit := mt (counterLow_lt_iff lo n).mpr h
    rw [show counterCarry lo n = 0#64 from if_neg h, BitVec.toNat_ofNat]
    omega

/-- R76, R77: the carry and the fold of `n`'s bits 63:61 together are the quotient of `lo + 8n` by `2^64`. -/
theorem counterHigh_toNat (lo hi n : Word) :
    (counterHigh lo hi n).toNat = (hi.toNat + (lo.toNat + 8 * n.toNat) / 2 ^ 64) % 2 ^ 64 := by
  have hfold : (n >>> 61).toNat = n.toNat / 2 ^ 61 := by rw [BitVec.toNat_ushiftRight, Nat.shiftRight_eq_div_pow]
  rw [counterHigh, BitVec.toNat_add, BitVec.toNat_add, counterCarry_toNat, hfold]
  omega

/-- Settles O4: the new low word is the remainder and the new high word takes the quotient of `lo + 8n` by `2^64`. -/
theorem counterStepIsExact : Obligations.CounterStepIsExact := by
  unfold Obligations.CounterStepIsExact
  intro lo hi n
  rw [counterHigh_toNat, counterLow_toNat]
  omega

/-- Settles O5: the carry is 1 or 0 as the low word wrapped or not. -/
theorem counterCarryDetectsTheWrap : Obligations.CounterCarryDetectsTheWrap := by
  unfold Obligations.CounterCarryDetectsTheWrap
  intro lo n
  refine ⟨counterLow_toNat lo n, Nat.mul_mod_mul_right 8 n.toNat (2 ^ 61), ?_, ?_, counterLow_lt_iff lo n⟩
  · simp [counterCarry]
  · simp [counterCarry]

/-- Settles O6: both words of two steps add up as quotient and remainder of `lo + 8 (n1 + n2)` by `2^64`. -/
theorem counterIgnoresChunking : Obligations.CounterIgnoresChunking := by
  unfold Obligations.CounterIgnoresChunking
  intro lo hi n1 n2 hsum
  have hn : (n1 + n2).toNat = n1.toNat + n2.toNat := BitVec.toNat_add_of_lt hsum
  constructor
  · apply BitVec.eq_of_toNat_eq
    rw [counterLow_toNat, counterLow_toNat, counterLow_toNat, hn]
    omega
  · apply BitVec.eq_of_toNat_eq
    rw [counterHigh_toNat, counterHigh_toNat, counterHigh_toNat, counterLow_toNat, hn]
    omega

/-! ### The Engine and the counter -/

/-- Settles O7: of the Engine's steps only the counter step writes CNT_LO and CNT_HI, and an abort loses them. -/
theorem onlyCountMovesTheCounter : Obligations.OnlyCountMovesTheCounter := by
  unfold Obligations.OnlyCountMovesTheCounter
  intro s hphase
  obtain ⟨e, _⟩ | ⟨hcount, _⟩ | ⟨_, _, e⟩ | ⟨x, hx, _⟩ | ⟨_, _, _, _, _, _, e⟩ | ⟨_, _, _, _, _, _, e⟩ | ⟨_, _, e⟩ |
    ⟨_, _, _, _, _, _, e⟩ | ⟨_, _, _, e⟩ | ⟨_, _, e⟩ | ⟨_, _, _, _, _, e⟩ := engineStep_cases s
  case inr.inl => exact absurd hcount hphase
  case inr.inr.inr.inl => exact .inr ⟨x, hx⟩
  all_goals
    rw [e]
    exact .inl ⟨rfl, rfl⟩

end Sys2Proof.Machine
end

section
/-! PROOFS. The summary function partitions the input into blocks of 128 bytes, and counts it (O59). -/

namespace Sys2Proof.Machine

/-! ### Blocks and the valid bytes -/

/-- R47: `j + k` blocks are `j` blocks and `k` of what follows them. -/
theorem blocksOf_add (j k : Nat) (bs : List Byte) :
    blocksOf (j + k) bs = blocksOf j bs ++ blocksOf k (bs.drop (128 * j)) := by
  induction j generalizing bs with
  | zero => simp [blocksOf]
  | succ j ih => rw [Nat.succ_add, blocksOf, ih, blocksOf, List.drop_drop, Nat.mul_succ, Nat.add_comm]; rfl

/-- R47: blocks that lie in the first part of a byte sequence do not depend on the rest. -/
theorem blocksOf_append {k : Nat} {xs : List Byte} (ys : List Byte) (h : 128 * k ≤ xs.length) :
    blocksOf k (xs ++ ys) = blocksOf k xs := by
  rw [← blocksOf_take (xs ++ ys) h, List.take_left]

/-- R13: BUF has 128 bytes. -/
@[simp] theorem bufBytes_length (buf : Vector Byte 128) (n : Nat) : (bufBytes buf 0 n).length = min n 128 := by
  simp [bufBytes]

/-- R13: all of BUF. -/
theorem bufBytes_all (buf : Vector Byte 128) : bufBytes buf 0 128 = buf.toList := by
  simp [bufBytes]

/-- R17: there are BUFLEN valid bytes. -/
@[simp] theorem Context.valid_length (c : Context) : c.valid.length = c.bufLen.toNat := by
  have := c.bufLen.isLt
  rw [Context.valid, bufBytes_length]
  omega

/-- R17: the valid bytes fit in BUF. -/
theorem Context.valid_length_le (c : Context) : c.valid.length ≤ 128 :=
  c.valid_length ▸ c.bufLen.isLt.le

/-- R13: bytes written behind the first `off` bytes of BUF are appended to them. -/
theorem bufBytes_bufWrite_append (buf : Vector Byte 128) {off : Nat} {bs : List Byte} (h : off + bs.length ≤ 128) :
    bufBytes (bufWrite buf off bs) 0 (off + bs.length) = bufBytes buf 0 off ++ bs := by
  refine List.ext_getElem (by simp; omega) fun k hk hk' => ?_
  rw [bufBytes_length] at hk
  simp only [bufBytes, List.drop_zero, List.getElem_take, Vector.getElem_toList, List.getElem_append,
    List.length_take, Vector.length_toList, bufWrite_getElem]
  by_cases hoff : k < off
  · rw [if_neg (by omega), dif_pos (by omega)]
  · rw [if_pos (by omega), dif_neg (by omega), List.getD_eq_getElem _ _ (by omega)]
    congr 1
    omega

/-- R90: BUF filled up from `rest` is the first block of the valid bytes and `rest`. -/
theorem Context.fill_toList (c : Context) {rest : List Byte} (h : 128 - c.bufLen.toNat ≤ rest.length) :
    (bufWrite c.buf c.bufLen.toNat (rest.take (128 - c.bufLen.toNat))).toList = (c.valid ++ rest).take 128 := by
  have hvalid := c.valid_length_le
  have hlen : c.bufLen.toNat + (rest.take (128 - c.bufLen.toNat)).length = 128 := by
    rw [List.length_take]
    rw [c.valid_length] at hvalid
    omega
  have hbuf := bufBytes_bufWrite_append c.buf hlen.le
  rw [hlen, bufBytes_all] at hbuf
  rw [hbuf, List.take_append, List.take_of_length_le hvalid, c.valid_length, Context.valid]

/-- R90: what follows that block. -/
theorem Context.valid_append_drop (c : Context) (rest : List Byte) :
    (c.valid ++ rest).drop 128 = rest.drop (128 - c.bufLen.toNat) := by
  rw [List.drop_append, List.drop_of_length_le c.valid_length_le, c.valid_length, List.nil_append]

/-! ### Partitions -/

/-- R105: a summary has dispatched the full blocks of `bs`, and its context holds the bytes after them. -/
structure Summary.Partitions (r : Summary) (bs : List Byte) : Prop where
  blocks : r.blocks = blocksOf (bs.length / 128) bs
  valid : r.ctx.valid = bs.drop (128 * (bs.length / 128))

namespace Summary.Partitions

variable {r : Summary} {bs : List Byte}

/-- R105: BUFLEN counts the bytes after the full blocks. -/
theorem bufLen (h : r.Partitions bs) : r.ctx.bufLen.toNat = bs.length % 128 := by
  rw [← Context.valid_length, h.valid, List.length_drop]
  omega

/-- Fewer than 128 bytes stay in BUF. -/
theorem of_lt (hlt : bs.length < 128) (hblocks : r.blocks = []) (hvalid : r.ctx.valid = bs) : r.Partitions bs := by
  have hzero : bs.length / 128 = 0 := Nat.div_eq_of_lt hlt
  constructor
  · rw [hzero, hblocks, blocksOf]
  · rw [hzero, hvalid, Nat.mul_zero, List.drop_zero]

/-- A context's own valid bytes, with nothing to do. -/
theorem of_valid (c : Context) : (Summary.mk c [] []).Partitions c.valid :=
  of_lt (c.valid_length ▸ c.bufLen.isLt) rfl rfl

/-- The first `k` blocks, and a partition of what follows them. -/
theorem after {k : Nat} (h : r.Partitions (bs.drop (128 * k))) (hk : 128 * k ≤ bs.length) (reqs : List Request) :
    (r.after reqs (blocksOf k bs)).Partitions bs := by
  have hlen : bs.length / 128 = k + (bs.drop (128 * k)).length / 128 := by rw [List.length_drop]; omega
  constructor
  · rw [hlen, blocksOf_add, Summary.after, h.blocks]
  · rw [hlen, Nat.mul_add, ← List.drop_drop]
    exact h.valid

/-- Input after input: what the first leaves in BUF comes before the second. -/
theorem append {q : Summary} {cs : List Byte} (h : r.Partitions bs) (hq : q.Partitions (r.ctx.valid ++ cs)) :
    (q.after r.reqs r.blocks).Partitions (bs ++ cs) := by
  have hk : 128 * (bs.length / 128) ≤ bs.length := Nat.mul_div_le ..
  rw [h.valid, ← List.drop_append_of_le_length hk] at hq
  rw [h.blocks, ← blocksOf_append cs hk]
  exact hq.after (hk.trans (by simp)) r.reqs

end Summary.Partitions

/-! ### One UPDATE -/

/-- R96: in an empty BUF the stash leaves its bytes. -/
theorem stashFn_valid {c : Context} {rest : List Byte} (h : c.bufLen.toNat = 0) (hlt : rest.length < 128) :
    (stashFn c rest).valid = rest := by
  by_cases hnil : rest = []
  · simp [stashFn, hnil, Context.valid, bufBytes, h]
  · have hlen : (BitVec.ofNat 7 rest.length).toNat = rest.length := Nat.mod_eq_of_lt hlt
    simp only [stashFn, if_neg hnil, Context.valid, hlen]
    exact bufBytes_bufWrite c.buf (by omega)

/-- R91 to R96: on every path the bulk phase dispatches the full blocks and stashes the rest. -/
theorem bulkFn_cases (b : Build) (c : Context) (rest : List Byte) (a : Nat) :
    ∃ buf reqs, bulkFn b c rest a = ⟨stashFn { c with buf := buf } (rest.drop (128 * (rest.length / 128))), reqs,
      blocksOf (rest.length / 128) rest⟩ := by
  by_cases hk : rest.length / 128 = 0
  · exact ⟨c.buf, [], by simp [bulkFn, hk, blocksOf]⟩
  · cases hpath : copyPath b a with
    | true => exact ⟨_, _, by simp only [bulkFn, if_neg hk, hpath, if_true]; rfl⟩
    | false => exact ⟨c.buf, _, by simp only [bulkFn, if_neg hk, hpath]; rfl⟩

/-- R91 to R96: the bulk phase of an empty BUF partitions its bytes. -/
theorem bulkFn_partitions (b : Build) {c : Context} (rest : List Byte) (a : Nat) (h : c.bufLen.toNat = 0) :
    (bulkFn b c rest a).Partitions rest := by
  obtain ⟨buf, reqs, e⟩ := bulkFn_cases b c rest a
  rw [e]
  exact ⟨rfl, stashFn_valid h (by rw [List.length_drop]; omega)⟩

/-- R88 to R96: the drain and what follows partition the valid bytes and the bytes of the chunk after them. -/
theorem drainFn_partitions (b : Build) (c : Context) (rest : List Byte) (a : Nat) :
    (drainFn b c rest a).Partitions (c.valid ++ rest) := by
  have hheld := c.bufLen.isLt
  by_cases hzero : c.bufLen.toNat = 0
  · have hnil : c.valid = [] := List.eq_nil_of_length_eq_zero (c.valid_length.trans hzero)
    rw [drainFn_of_empty b rest a hzero, hnil, List.nil_append]
    exact bulkFn_partitions b rest a hzero
  by_cases hlt : rest.length < 128 - c.bufLen.toNat
  · have hlen : (BitVec.ofNat 7 (c.bufLen.toNat + rest.length)).toNat = c.bufLen.toNat + rest.length :=
      Nat.mod_eq_of_lt (by omega)
    rw [drainFn_of_lt b a hzero hlt]
    refine .of_lt (by simp; omega) rfl ?_
    simp only [Context.valid, hlen]
    exact bufBytes_bufWrite_append c.buf (by omega)
  · have hge : 128 - c.bufLen.toNat ≤ rest.length := Nat.le_of_not_lt hlt
    rw [drainFn_of_ge b a hzero hge, c.fill_toList hge, ← c.valid_append_drop]
    exact (bulkFn_partitions b _ _ rfl).after (k := 1) (by simp; omega) _

/-- R105: an UPDATE partitions the valid bytes and the chunk's bytes after them. -/
theorem updateFn_partitions (b : Build) (c : Context) (chunk : List Byte) (a : Nat) :
    (updateFn b c chunk a).Partitions (c.valid ++ chunk) := by
  by_cases hnil : chunk = []
  · rw [hnil, List.append_nil]
    exact .of_valid c
  · rw [updateFn_eq_drainFn b c a hnil]
    exact drainFn_partitions b (countFn c chunk.length) chunk a

/-! ### The counter of an UPDATE -/

/-- R73: no bytes, no count. -/
theorem countFn_zero (c : Context) : countFn c 0 = c := by
  simp [countFn, counterLow, counterHigh, counterCarry]

/-- R80: the counter step on a context. -/
theorem countFn_count (c : Context) {n : Nat} (h : n < 2 ^ 64) :
    (countFn c n).count = (c.count + 8 * n) % 2 ^ 128 := by
  have := counterStepIsExact c.cntLo c.cntHi (BitVec.ofNat 64 n)
  rwa [BitVec.toNat_ofNat, Nat.mod_eq_of_lt h] at this

/-- R79: the stash leaves the counter alone. -/
theorem stashFn_cnt (c : Context) (rest : List Byte) :
    (stashFn c rest).cntLo = c.cntLo ∧ (stashFn c rest).cntHi = c.cntHi := by
  unfold stashFn
  split <;> exact ⟨rfl, rfl⟩

/-- R79: the bulk phase leaves the counter alone. -/
theorem bulkFn_cnt (b : Build) (c : Context) (rest : List Byte) (a : Nat) :
    (bulkFn b c rest a).ctx.cntLo = c.cntLo ∧ (bulkFn b c rest a).ctx.cntHi = c.cntHi := by
  obtain ⟨buf, reqs, e⟩ := bulkFn_cases b c rest a
  rw [e]
  exact stashFn_cnt ..

/-- R79: the drain and what follows leave the counter alone. -/
theorem drainFn_cnt (b : Build) (c : Context) (rest : List Byte) (a : Nat) :
    (drainFn b c rest a).ctx.cntLo = c.cntLo ∧ (drainFn b c rest a).ctx.cntHi = c.cntHi := by
  by_cases hzero : c.bufLen.toNat = 0
  · rw [drainFn_of_empty b rest a hzero]
    exact bulkFn_cnt ..
  by_cases hlt : rest.length < 128 - c.bufLen.toNat
  · rw [drainFn_of_lt b a hzero hlt]
    exact ⟨rfl, rfl⟩
  · rw [drainFn_of_ge b a hzero (Nat.le_of_not_lt hlt)]
    exact bulkFn_cnt ..

/-- R73, R79: an UPDATE counts its bytes once. -/
theorem updateFn_cnt (b : Build) (c : Context) (chunk : List Byte) (a : Nat) :
    (updateFn b c chunk a).ctx.cntLo = (countFn c chunk.length).cntLo ∧
      (updateFn b c chunk a).ctx.cntHi = (countFn c chunk.length).cntHi := by
  by_cases hnil : chunk = []
  · rw [hnil, List.length_nil, countFn_zero]
    exact ⟨rfl, rfl⟩
  · rw [updateFn_eq_drainFn b c a hnil]
    exact drainFn_cnt ..

/-- R80: an UPDATE adds 8 bits a byte. -/
theorem updateFn_count (b : Build) (c : Context) {chunk : List Byte} (a : Nat) (h : chunk.length < 2 ^ 64) :
    (updateFn b c chunk a).ctx.count = (c.count + 8 * chunk.length) % 2 ^ 128 := by
  obtain ⟨hlo, hhi⟩ := updateFn_cnt b c chunk a
  rw [← countFn_count c h, Context.count, hlo, hhi, Context.count]

/-! ### Successive UPDATEs -/

/-- R106: successive UPDATEs partition the valid bytes and the concatenation of the chunks after them. -/
theorem updateAll_partitions (b : Build) (c : Context) (xs : List (Nat × List Byte)) :
    (updateAll b c xs).Partitions (c.valid ++ (xs.map Prod.snd).flatten) := by
  induction xs generalizing c with
  | nil =>
    rw [List.map_nil, List.flatten_nil, List.append_nil]
    exact .of_valid c
  | cons x xs ih =>
    rw [List.map_cons, List.flatten_cons, ← List.append_assoc]
    exact (updateFn_partitions b c x.2 x.1).append (ih _)

/-- R81: successive UPDATEs add 8 bits a byte. -/
theorem updateAll_count (b : Build) (c : Context) (xs : List (Nat × List Byte)) (h : ∀ x ∈ xs, x.2.length < 2 ^ 64) :
    (updateAll b c xs).ctx.count = (c.count + 8 * (xs.map Prod.snd).flatten.length) % 2 ^ 128 := by
  induction xs generalizing c with
  | nil =>
    have hlo := c.cntLo.isLt
    have hhi := c.cntHi.isLt
    simp only [updateAll, Context.count, List.map_nil, List.flatten_nil, List.length_nil]
    omega
  | cons x xs ih =>
    obtain ⟨hx, hxs⟩ := List.forall_mem_cons.mp h
    have hrest := ih (updateFn b c x.2 x.1).ctx hxs
    rw [updateFn_count b c x.1 hx] at hrest
    rw [List.map_cons, List.flatten_cons, List.length_append]
    refine hrest.trans ?_
    omega

/-- Settles O59: with BUF empty the partitioned bytes are the input history. -/
theorem orderPreservation : Obligations.OrderPreservation := by
  unfold Obligations.OrderPreservation
  intro b c xs hempty hlen r h
  have hnil : c.valid = [] := List.eq_nil_of_length_eq_zero (by rw [Context.valid_length, hempty]; rfl)
  have hpart : r.Partitions h := by
    have := updateAll_partitions b c xs
    rwa [hnil, List.nil_append] at this
  refine ⟨hpart.blocks, hpart.bufLen, ?_, updateAll_count b c xs hlen⟩
  rw [hpart.valid]
  congr 1
  omega

end Sys2Proof.Machine
end

section
/-! PROOFS. The laws of whole UPDATEs: what one leaves, and what its build, its addresses and its chunking do not matter
to (O55, O57, O58, O60). -/

namespace Sys2Proof.Machine

/-! ### What a partition determines -/

/-- R105: the valid bytes are the last `m mod 128` of the `m` partitioned bytes. -/
theorem Summary.Partitions.valid_eq_drop_sub {r : Summary} {bs : List Byte} (h : r.Partitions bs) :
    r.ctx.valid = bs.drop (bs.length - bs.length % 128) := by
  rw [h.valid]
  congr 1
  omega

/-- Two partitions of the same bytes have the same blocks, BUFLEN and valid bytes. -/
theorem Summary.Partitions.agree {r q : Summary} {bs : List Byte} (hr : r.Partitions bs) (hq : q.Partitions bs) :
    r.blocks = q.blocks ∧ r.ctx.bufLen = q.ctx.bufLen ∧ r.ctx.valid = q.ctx.valid :=
  ⟨hr.blocks.trans hq.blocks.symm, BitVec.eq_of_toNat_eq (hr.bufLen.trans hq.bufLen.symm),
    hr.valid.trans hq.valid.symm⟩

/-- R17: with BUFLEN = 0 no byte of BUF is valid. -/
theorem Context.valid_eq_nil {c : Context} (h : c.bufLen = 0) : c.valid = [] :=
  List.eq_nil_of_length_eq_zero (c.valid_length.trans (congrArg BitVec.toNat h))

/-! ### The one-command law -/

/-- R104: with no request outstanding the stream is what has been absorbed. -/
theorem State.dispatched_of_idle {s : State} (h : s.phase = .idle) : s.dispatched = s.absorbed := by
  simp [State.dispatched, State.outstanding, h]

/-- Settles O55: a run leaves what the summary function computes (O54), which partitions the valid bytes followed by the
chunk. -/
theorem oneCommandLaw : Obligations.OneCommandLaw := by
  unfold Obligations.OneCommandLaw
  intro s t chunk agents hready hsched hundisturbed hrun hidle all m
  obtain ⟨hctx, _, habsorbed, _⟩ := updateRunMatchesSummary s t chunk agents hready hsched hundisturbed hrun hidle
  have hpart : (updateFn s.build s.context chunk s.srcAddr.toNat).Partitions all :=
    updateFn_partitions s.build s.context chunk s.srcAddr.toNat
  have hm : all.length = m := by rw [List.length_append]; exact congrArg (· + _) s.context.valid_length
  have hshort : chunk.length < 2 ^ 64 := hready.length ▸ s.len.isLt
  rw [← hm, ← hpart.blocks, ← hpart.valid_eq_drop_sub, ← hpart.bufLen, ← updateFn_count _ _ _ hshort, ← hctx,
    State.dispatched_of_idle hidle, State.dispatched_of_idle hready.idle]
  exact ⟨habsorbed, rfl, rfl, rfl⟩

/-! ### Builds, addresses and stale bytes -/

/-- R73, R109: the counter an UPDATE leaves comes of the counter before it and the chunk. -/
theorem updateFn_cnt_congr (b b' : Build) {c c' : Context} (hlo : c.cntLo = c'.cntLo) (hhi : c.cntHi = c'.cntHi)
    {chunk chunk' : List Byte} (h : chunk = chunk') (a a' : Nat) :
    (updateFn b c chunk a).ctx.cntLo = (updateFn b' c' chunk' a').ctx.cntLo ∧
      (updateFn b c chunk a).ctx.cntHi = (updateFn b' c' chunk' a').ctx.cntHi := by
  subst h
  obtain ⟨elo, ehi⟩ := updateFn_cnt b c chunk a
  obtain ⟨elo', ehi'⟩ := updateFn_cnt b' c' chunk a'
  rw [elo, ehi, elo', ehi', countFn, countFn, hlo, hhi]
  exact ⟨rfl, rfl⟩

/-- R73, R109: the counter that successive UPDATEs leave comes of the counter before them and the chunks' bytes. -/
theorem updateAll_cnt_congr (b b' : Build) {c c' : Context} {xs ys : List (Nat × List Byte)}
    (hlo : c.cntLo = c'.cntLo) (hhi : c.cntHi = c'.cntHi) (h : xs.map Prod.snd = ys.map Prod.snd) :
    (updateAll b c xs).ctx.cntLo = (updateAll b' c' ys).ctx.cntLo ∧
      (updateAll b c xs).ctx.cntHi = (updateAll b' c' ys).ctx.cntHi := by
  induction xs generalizing c c' ys with
  | nil =>
    obtain rfl : ys = [] := List.map_eq_nil_iff.mp h.symm
    exact ⟨hlo, hhi⟩
  | cons x xs ih =>
    obtain ⟨y, ys, rfl, hy, hys⟩ := List.map_eq_cons_iff.mp h.symm
    obtain ⟨hlo', hhi'⟩ := updateFn_cnt_congr b b' hlo hhi hy.symm x.1 y.1
    simpa only [updateAll] using ih hlo' hhi' hys.symm

/-- Settles O57: both sides partition the same valid bytes followed by the same input. -/
theorem pathAndPolicyIndependence : Obligations.PathAndPolicyIndependence := by
  unfold Obligations.PathAndPolicyIndependence
  intro b b' c c' xs ys hlo hhi _ hvalid hbytes r q
  have hr : r.Partitions (c.valid ++ (xs.map Prod.snd).flatten) := updateAll_partitions b c xs
  have hq : q.Partitions (c.valid ++ (xs.map Prod.snd).flatten) :=
    hvalid ▸ hbytes ▸ updateAll_partitions b' c' ys
  obtain ⟨hblocks, hlen, hval⟩ := hr.agree hq
  obtain ⟨hrlo, hrhi⟩ := updateAll_cnt_congr b b' hlo hhi hbytes
  exact ⟨hblocks, hrlo, hrhi, hlen, hval⟩

/-! ### Chunking -/

/-- R25: the counter's value determines both of its words. -/
theorem Context.cnt_eq_of_count_eq {c c' : Context} (h : c.count = c'.count) :
    c.cntLo = c'.cntLo ∧ c.cntHi = c'.cntHi := by
  have hlo := c.cntLo.isLt
  have hlo' := c'.cntLo.isLt
  rw [Context.count, Context.count] at h
  exact ⟨BitVec.eq_of_toNat_eq (by omega), BitVec.eq_of_toNat_eq (by omega)⟩

/-- Settles O58: chunk by chunk or at once, the same bytes are partitioned and counted. -/
theorem chunkingIsAssociative : Obligations.ChunkingIsAssociative := by
  unfold Obligations.ChunkingIsAssociative
  intro b c xs a hlen r q
  have hshort : ∀ x ∈ xs, x.2.length < 2 ^ 64 := fun x hx =>
    (List.sublist_flatten_of_mem (List.mem_map_of_mem hx)).length_le.trans_lt hlen
  obtain ⟨hblocks, hbufLen, hvalid⟩ := (updateAll_partitions b c xs).agree (updateFn_partitions b c _ a)
  obtain ⟨hlo, hhi⟩ := Context.cnt_eq_of_count_eq
    ((updateAll_count b c xs hshort).trans (updateFn_count b c a hlen).symm)
  exact ⟨hblocks, hlo, hhi, hbufLen, hvalid⟩

/-! ### The boundary at one block -/

/-- R93, R94: on either path one full block is one request with `n = 1`. -/
theorem bulkFn_reqs_of_one_block (b : Build) (c : Context) {rest : List Byte} (a : Nat) (h : rest.length / 128 = 1) :
    ∃ r, (bulkFn b c rest a).reqs = [r] ∧ r.n = 1 := by
  cases hpath : copyPath b a with
  | true => exact ⟨bufRequest, by rw [bulkFn_of_copyPath c h hpath]; rfl, rfl⟩
  | false =>
    rw [bulkFn_direct c (by omega) hpath, bulkFn_of_lt b _ _ (by rw [List.length_drop]; omega), h]
    exact ⟨_, rfl, rfl⟩

/-- R108: from an empty buffer, an UPDATE with one full block and less than one more is one request of that block. -/
theorem updateFn_of_one_block (b : Build) {c : Context} {chunk : List Byte} (a : Nat) (hempty : c.bufLen = 0)
    (h : chunk.length / 128 = 1) :
    (updateFn b c chunk a).ctx.bufLen.toNat = chunk.length % 128 ∧ (updateFn b c chunk a).blocks = [chunk.take 128] ∧
      ∃ r, (updateFn b c chunk a).reqs = [r] ∧ r.n = 1 := by
  have hpart : (updateFn b c chunk a).Partitions chunk := by
    simpa [Context.valid_eq_nil hempty] using updateFn_partitions b c chunk a
  have hne : chunk ≠ [] := by rintro rfl; cases h
  refine ⟨hpart.bufLen, by rw [hpart.blocks, h]; rfl, ?_⟩
  have hzero : (countFn c chunk.length).bufLen.toNat = 0 := congrArg BitVec.toNat hempty
  rw [updateFn_eq_drainFn b c a hne, drainFn_of_empty b chunk a hzero]
  exact bulkFn_reqs_of_one_block b _ a h

/-- Settles O60: 128 and 129 bytes are one full block, with nothing and with one byte after it. -/
theorem boundaryExactness : Obligations.BoundaryExactness := by
  unfold Obligations.BoundaryExactness
  intro b c chunk a hempty
  refine ⟨fun hlen => ?_, fun hlen => ?_⟩
  all_goals
    obtain ⟨hbufLen, hblocks, hreqs⟩ := updateFn_of_one_block (chunk := chunk) b a hempty (by omega)
    rw [hlen] at hbufLen
    refine ⟨BitVec.eq_of_toNat_eq hbufLen, ?_, hreqs⟩
  · rwa [List.take_of_length_le hlen.le] at hblocks
  · exact hblocks

end Sys2Proof.Machine
end

section
/-! PROOFS. The Engine's phases, one equation for each thing a step can do (O14 to O19, O21), and the commands at
acceptance (O8, O9, O13). -/

namespace Sys2Proof.Machine

/-! ### The step in each phase -/

section
variable {s : State} {bs : List Byte}

/-- R88: an empty buffer has nothing to drain. -/
theorem engineStep_drain_empty (hp : s.phase = .drain) (hempty : s.bufLen = 0) :
    engineStep s = { s with phase := .bulk } := by
  simp only [engineStep, hp, engineDrain, if_pos hempty]

/-- R89: the chunk ends inside the partial block. -/
theorem engineStep_drain_partial (hp : s.phase = .drain) (hheld : s.bufLen ≠ 0)
    (hlt : s.curLen.toNat < 128 - s.bufLen.toNat) (hread : s.memRead s.curAddr.toNat s.curLen.toNat = .bytes bs) :
    engineStep s = { s with
      buf := bufWrite s.buf s.bufLen.toNat bs
      bufLen := BitVec.ofNat 7 (s.bufLen.toNat + s.curLen.toNat) }.finish := by
  simp only [engineStep, hp, engineDrain, if_neg hheld, if_pos hlt, drainPartial, State.copyIn_bytes hread]

/-- R90: the chunk fills the partial block. -/
theorem engineStep_drain_full (hp : s.phase = .drain) (hheld : s.bufLen ≠ 0)
    (hge : 128 - s.bufLen.toNat ≤ s.curLen.toNat)
    (hread : s.memRead s.curAddr.toNat (128 - s.bufLen.toNat) = .bytes bs) :
    engineStep s = ({ s with buf := bufWrite s.buf s.bufLen.toNat bs, bufLen := 0 }.advance
      (128 - s.bufLen.toNat)).issue bufRequest .drain := by
  simp only [engineStep, hp, engineDrain, if_neg hheld, if_neg (Nat.not_lt.mpr hge), drainFull,
    State.copyIn_bytes hread]

/-- R91: with fewer than 128 bytes left the bulk phase ends. -/
theorem engineStep_bulk_end (hp : s.phase = .bulk) (hlt : s.curLen.toNat < 128) :
    engineStep s = { s with phase := .stash } := by
  simp only [engineStep, hp, engineBulk, if_neg (Nat.not_le.mpr hlt)]

/-- R92, R93: on the copy path the step is the copy of one block. -/
theorem engineStep_bulk_copyPath (hp : s.phase = .bulk) (hge : 128 ≤ s.curLen.toNat)
    (hpath : copyPath s.build s.curAddr.toNat = true) : engineStep s = bulkCopy s := by
  simp only [engineStep, hp, engineBulk, if_pos hge, if_pos hpath]

/-- R92, R94: on the direct path the step is the request for all full blocks. -/
theorem engineStep_bulk_direct (hp : s.phase = .bulk) (hge : 128 ≤ s.curLen.toNat)
    (hpath : copyPath s.build s.curAddr.toNat = false) : engineStep s = s.issue (bulkRequest s) .bulk := by
  simp only [engineStep, hp, engineBulk, if_pos hge, hpath, Bool.false_eq_true, if_false, bulkDirect]

/-- R96: with nothing left the command ends. -/
theorem engineStep_stash_empty (hp : s.phase = .stash) (hzero : s.curLen = 0) : engineStep s = s.finish := by
  simp only [engineStep, hp, engineStash, if_pos hzero]

/-- R96: the remainder goes to the front of BUF. -/
theorem engineStep_stash_rest (hp : s.phase = .stash) (hne : s.curLen ≠ 0)
    (hread : s.memRead s.curAddr.toNat s.curLen.toNat = .bytes bs) :
    engineStep s
      = { s with buf := bufWrite s.buf 0 bs, bufLen := BitVec.ofNat 7 s.curLen.toNat }.finish := by
  simp only [engineStep, hp, engineStash, if_neg hne, State.copyIn_bytes hread]

/-- R91, R96: BULK with nothing left goes on to STASH, which ends the command. -/
theorem engineStep_bulk_empty (hp : s.phase = .bulk) (hzero : s.curLen = 0) :
    engineStep s = { s with phase := .stash } ∧ engineStep (engineStep s) = { s with phase := .stash }.finish := by
  have hend := engineStep_bulk_end hp (by rw [hzero]; decide)
  rw [hend]
  exact ⟨rfl, engineStep_stash_empty rfl hzero⟩

/-- R45: a read depends only on what each byte's read returns. -/
theorem State.memRead_congr {t : State} (h : ∀ a, s.busRead a = t.busRead a) (a n : Nat) :
    s.memRead a n = t.memRead a n := by
  induction n generalizing a with
  | zero => rfl
  | succ n ih => rw [State.memRead, State.memRead, h, ih]

/-- R94, R101: a request that was just issued has as its blocks the bytes that can be read at its address. -/
theorem State.requestBlocks_issue_bulkRequest
    (hread : s.memRead (bulkRequest s).addr.toNat (128 * (bulkRequest s).n.toNat) = .bytes bs) (back : Resume) :
    (s.issue (bulkRequest s) back).requestBlocks (bulkRequest s) = some (blocksOf (bulkRequest s).n.toNat bs) := by
  have hread' := (State.memRead_congr (s := s.issue (bulkRequest s) back) (t := s) (fun _ => rfl) _ _).trans hread
  rw [State.requestBlocks, show (bulkRequest s).src = .mem from rfl]
  dsimp only
  rw [hread']

/-- R99: the acknowledgement of a request whose blocks can be read. -/
theorem acknowledge_of_requestBlocks {r : Request} {back : Resume} {blocks : List Block}
    (hp : s.phase = .waitCmp r back) (hblocks : s.requestBlocks r = some blocks) :
    acknowledge s = { s with absorbed := s.absorbed ++ blocks }.resumeAfter r back := by
  simp only [acknowledge, hp, hblocks]

end

/-! ### DRAIN -/

/-- Settles O14: the copy goes behind the valid bytes, and BUFLEN + CUR_LEN fits in BUFLEN. -/
theorem drainKeepsPartialBlock : Obligations.DrainKeepsPartialBlock := by
  unfold Obligations.DrainKeepsPartialBlock
  intro s bs hp hheld hlt hread
  obtain ⟨hlen, _⟩ := State.memRead_bytes hread
  rw [engineStep_drain_partial hp hheld hlt hread]
  refine ⟨Nat.mod_eq_of_lt (by omega), fun k hk => ?_, rfl⟩
  rw [← hlen]
  exact bufWrite_getElem ..

/-- Settles O15: after the acknowledgement DRAIN finds BUFLEN 0 and goes on to BULK; with CUR_LEN 0 left, BULK and STASH
only end the command. -/
theorem drainDispatchesFullBlock : Obligations.DrainDispatchesFullBlock := by
  unfold Obligations.DrainDispatchesFullBlock
  intro s bs hp hheld hge hread
  obtain ⟨hlen, _⟩ := State.memRead_bytes hread
  have hstep := engineStep_drain_full hp hheld hge hread
  have hleft : (engineStep s).curLen.toNat = s.curLen.toNat - (128 - s.bufLen.toNat) := by
    rw [hstep]
    exact State.advance_curLen_toNat (s := s) hge
  have hack : acknowledge (engineStep s) = { engineStep s with
      phase := .drain, absorbed := s.absorbed ++ [(engineStep s).buf.toList] } := by
    rw [acknowledge_of_requestBlocks (congrArg State.phase hstep) rfl, hstep]
    rfl
  have hbulk : engineStep (acknowledge (engineStep s)) = { engineStep s with
      phase := .bulk, absorbed := s.absorbed ++ [(engineStep s).buf.toList] } := by
    rw [hack]
    exact engineStep_drain_empty rfl (congrArg State.bufLen hstep)
  refine ⟨fun k hk => ?_, hleft, by rw [hstep]; rfl, hbulk, fun hexact => ?_⟩
  · have hheld' := s.bufLen.isLt
    rw [hstep]
    refine (bufWrite_getElem ..).trans (if_congr ?_ rfl rfl)
    omega
  · have hzero : (engineStep s).curLen = 0 := BitVec.eq_of_toNat_eq (by rw [hleft, hexact, Nat.sub_self]; rfl)
    obtain ⟨hstash, hend⟩ := engineStep_bulk_empty (congrArg State.phase hbulk)
      ((congrArg State.curLen hbulk).trans hzero)
    rw [hend, hstash]
    exact ⟨rfl, rfl, (congrArg State.bufLen hbulk).trans (congrArg State.bufLen hstep)⟩

/-! ### BULK -/

/-- R92: when the copy path is taken. -/
theorem copyPath_eq_true_iff (b : Build) (a : Nat) :
    copyPath b a = true ↔ b.policy = .copyAll ∨ (a % 8 ≠ 0 ∧ b.canUnaligned = false) := by
  simp [copyPath, wordBytes]

/-- Settles O16: the copy path's step is a copy, which issues the BUF request or aborts. -/
theorem bulkPathSelection : Obligations.BulkPathSelection := by
  unfold Obligations.BulkPathSelection
  intro s hp
  split_ifs with hlt hcopy
  · exact engineStep_bulk_end hp hlt
  · rw [engineStep_bulk_copyPath hp (Nat.not_lt.mp hlt) ((copyPath_eq_true_iff ..).mpr hcopy), bulkCopy]
    obtain ⟨bs, _, e⟩ | ⟨x, hx, e⟩ := s.copyIn_cases 0 128 fun t => t.issue bufRequest .bulk
    · rw [e]
      exact .inl rfl
    · exact .inr ⟨x, hx, e⟩
  · have hpath := Bool.eq_false_iff.mpr (mt (copyPath_eq_true_iff ..).mp hcopy)
    rw [engineStep_bulk_direct hp (Nat.not_lt.mp hlt) hpath]
    exact ⟨_, _, rfl⟩

/-- Settles O17: the copy covers BUF, so the absorbed block is the bytes read. -/
theorem bulkCopiesOneBlock : Obligations.BulkCopiesOneBlock := by
  unfold Obligations.BulkCopiesOneBlock
  intro s bs hp hge hpath hread
  obtain ⟨hlen, _⟩ := State.memRead_bytes hread
  have hstep := engineStep_bulk_copyPath hp hge hpath
  rw [bulkCopy, State.copyIn_bytes hread] at hstep
  have hbuf : (engineStep s).buf.toList = bs := by
    rw [hstep]
    exact bufWrite_toList hlen
  refine ⟨hbuf, by rw [hstep]; rfl, ?_⟩
  rw [acknowledge_of_requestBlocks (congrArg State.phase hstep) rfl, hbuf, hstep]
  rfl

/-- Settles O18: the request's blocks are the full blocks of the rest, and the acknowledgement leaves the bytes after
them. -/
theorem bulkSendsAllFullBlocks : Obligations.BulkSendsAllFullBlocks := by
  unfold Obligations.BulkSendsAllFullBlocks
  intro s hp hge hpath
  have hn := bulkRequest_n_toNat s
  have hstep := engineStep_bulk_direct hp hge hpath
  refine ⟨bulkRequest s, rfl, rfl, hn, by omega, hstep, fun bs hread => ?_⟩
  have hblocks := State.requestBlocks_issue_bulkRequest hread .bulk
  have hrest : s.curLen - BitVec.ofNat 64 (128 * (bulkRequest s).n.toNat) = BitVec.ofNat 64 (s.curLen.toNat % 128) := by
    apply BitVec.eq_of_toNat_eq
    have := s.curLen.isLt
    rw [← State.advance_curLen, State.advance_curLen_toNat (by omega), BitVec.toNat_ofNat]
    omega
  rw [hstep, acknowledge_of_requestBlocks rfl hblocks, ← hrest]
  rfl

/-! ### STASH -/

/-- Settles O19: the copy goes to the front of BUF, and CUR_LEN fits in BUFLEN. -/
theorem stashKeepsRemainder : Obligations.StashKeepsRemainder := by
  unfold Obligations.StashKeepsRemainder
  intro s bs hp hlt hread
  obtain ⟨hlen, _⟩ := State.memRead_bytes hread
  refine ⟨engineStep_stash_empty hp, fun hne => ?_⟩
  rw [engineStep_stash_rest hp hne hread]
  refine ⟨Nat.mod_eq_of_lt hlt, fun k hk => (bufWrite_getElem ..).trans ?_, rfl⟩
  simp [hlen]

/-! ### What the Engine writes to BUF -/

/-- R110: an Engine step whose reads succeed writes to BUF the bytes it reads, and nothing when it reads none. -/
theorem engineStep_buf {s : State} {bs : List Byte} (hread : s.memRead s.curAddr.toNat (engineReads s) = .bytes bs) :
    (engineStep s).buf = bufWrite s.buf (engineOffset s) bs := by
  have hsame : ∀ {cs}, s.memRead s.curAddr.toNat (engineReads s) = .bytes cs → bs = cs := fun hcs =>
    ReadResult.bytes.inj (hread.symm.trans hcs)
  have hnone (h0 : engineReads s = 0) : s.buf = bufWrite s.buf (engineOffset s) bs := by
    rw [hsame (cs := []) (by rw [h0]; rfl), bufWrite]
  obtain ⟨e, hp | ⟨r, b, hp⟩⟩ | ⟨hp, e⟩ | ⟨hp, hz, e⟩ | ⟨y, hy, e⟩ | ⟨cs, hp, _, _, _, hcs, e⟩ |
    ⟨cs, hp, _, _, _, hcs, e⟩ | ⟨hp, hlt, e⟩ | ⟨cs, hp, _, _, _, hcs, e⟩ | ⟨hp, _, hpath, e⟩ | ⟨hp, hz, e⟩ |
    ⟨cs, hp, _, _, hcs, e⟩ := engineStep_cases s
  all_goals rw [e]
  case inl.inl | inl.inr | inr.inl => exact hnone (by rw [engineReads, hp])
  · -- DRAIN of an empty buffer
    exact hnone (by rw [engineReads, hp]; exact if_pos hz)
  · cases hread.symm.trans hy
  · -- DRAIN of a chunk that ends inside the partial block
    rw [engineOffset, hp, hsame hcs]; rfl
  · -- DRAIN that fills the block
    rw [engineOffset, hp, hsame hcs]; rfl
  · -- BULK goes on to STASH
    exact hnone (by rw [engineReads, hp]; exact if_neg (by omega))
  · -- BULK on the copy path
    rw [engineOffset, hp, hsame hcs]; rfl
  · -- BULK on the direct path
    exact hnone (by rw [engineReads, hp]; exact if_neg (by simp [hpath]))
  · -- STASH with nothing left
    exact hnone (by rw [engineReads, hp, hz]; rfl)
  · -- STASH of a remainder
    rw [engineOffset, hp, hsame hcs]; rfl

/-- Settles O21: the step writes the bytes it reads, `engineReads s` of them. -/
theorem engineWritesOnlyItsCopy : Obligations.EngineWritesOnlyItsCopy := by
  unfold Obligations.EngineWritesOnlyItsCopy
  intro s bs hread k hk
  obtain ⟨hlen, _⟩ := State.memRead_bytes hread
  rw [← hlen, ← bufWrite_getElem _ _ _ _ hk]
  simp only [engineStep_buf hread]

/-! ### Acceptance of the commands -/

/-- Settles O8: acceptance latches the operands, and COUNT makes the counter step on them. -/
theorem updateStartsTheEngine : Obligations.UpdateStartsTheEngine := by
  unfold Obligations.UpdateStartsTheEngine
  intro s hidle hlen hrange
  have haccept : exec .update s = .next (s.start s.srcAddr s.len) := by
    have hin : inRange s.srcAddr s.len = true := decide_eq_true hrange
    rw [exec, execUpdate, if_neg (by simp [hidle]), if_neg hlen, if_pos hin]
  have hsrc : (s.srcAddr.setWidth 65).toNat = s.srcAddr.toNat :=
    BitVec.toNat_setWidth_of_le (by decide)
  exact ⟨s.start s.srcAddr s.len, haccept, rfl, rfl, hsrc, rfl⟩

/-- Settles O9: of the effects a command has at acceptance, an UPDATE with LEN = 0 has none. -/
theorem zeroLengthUpdateIsNoOp : Obligations.ZeroLengthUpdateIsNoOp := by
  unfold Obligations.ZeroLengthUpdateIsNoOp
  intro s hidle hzero
  obtain ⟨hb, _⟩ | ⟨_, _, _, e⟩ | ⟨_, _, hne, _⟩ | ⟨_, _, hne, _⟩ | ⟨hi, _⟩ := exec_cases .update s
  · exact absurd (hidle.symm.trans hb) (by decide)
  · exact e
  · exact absurd hzero hne
  · exact absurd hzero hne
  · cases hi

/-- Settles O13: a command raises one error bit, latches the operands, or clears the context. -/
theorem commandFrame : Obligations.CommandFrame := by
  unfold Obligations.CommandFrame
  intro i s t ht
  obtain ⟨hb, e⟩ | ⟨rfl, hb, hz, e⟩ | ⟨rfl, hb, hne, hr, e⟩ | ⟨rfl, hb, hne, hr, e⟩ | ⟨rfl, hb, e⟩ := exec_cases i s
  all_goals
    rw [e] at ht
    cases ht
  · -- dropped while BUSY
    cases i <;> simp [hb, Errors.set]
  · -- UPDATE with LEN = 0
    simp
  · -- UPDATE accepted
    simp
  · -- UPDATE out of range
    simpa [Errors.set, hb] using fun _ => ⟨hne, hr⟩
  · -- CLEAR while idle
    simp

end Sys2Proof.Machine
end

section
/-! PROOFS. The Compressor interface: who ends a wait, the stream, and BUF under a request (O23, O24, O25). -/

namespace Sys2Proof.Machine

section
variable {s t : State} {r : Request} {back : Resume}

/-- R99: in WAIT_CMP the Engine takes no step. -/
theorem engineStep_of_waitCmp (h : s.phase = .waitCmp r back) : engineStep s = s := by
  simp only [engineStep, h]

/-- R101: with a read of the request refused, a turn of the Compressor does nothing. -/
theorem acknowledge_of_refused (h : s.phase = .waitCmp r back) (hblocks : s.requestBlocks r = none) :
    acknowledge s = s := by
  simp only [acknowledge, h, hblocks]

/-- R99: the phase to which an acknowledged request goes back. -/
theorem State.resumeAfter_phase (s : State) (r : Request) (back : Resume) :
    (s.resumeAfter r back).phase = match back with | .drain => .drain | .bulk => .bulk := by
  cases back <;> rfl

/-- R99: the Engine resumes with no request outstanding, the history and the stream as they were. -/
theorem State.resumeAfter_request (s : State) (r : Request) (back : Resume) :
    (s.resumeAfter r back).outstanding = none ∧ (s.resumeAfter r back).history = s.history ∧
      (s.resumeAfter r back).absorbed = s.absorbed := by
  cases back <;> exact ⟨rfl, rfl, rfl⟩

/-- R129: while BUSY a turn of the Host changes neither the phase nor BUF. -/
theorem HostTurn.phase_buf_of_busy (h : HostTurn s t) (hbusy : s.busy = true) : t.phase = s.phase ∧ t.buf = s.buf := by
  cases h with
  | quiet | status | raise | operand | memory => exact ⟨rfl, rfl⟩
  | start _ hidle | context _ hidle => exact absurd (hbusy.symm.trans hidle) (by decide)

end

/-- Settles O23: while BUSY the Host leaves the phase, in WAIT_CMP the Engine takes no step, and the Compressor moves
only when it can read the blocks. -/
theorem engineWaitsForAcknowledgement : Obligations.EngineWaitsForAcknowledgement := by
  unfold Obligations.EngineWaitsForAcknowledgement
  intro s r back hp
  refine ⟨engineStep_of_waitCmp hp, acknowledge_of_refused hp, fun bs hbs => ?_, fun a t ht hmoved => ?_⟩
  · rw [acknowledge_of_requestBlocks hp hbs]
    obtain ⟨hout, hhistory, habsorbed⟩ := State.resumeAfter_request { s with absorbed := s.absorbed ++ bs } r back
    exact ⟨habsorbed, hout, hhistory, State.resumeAfter_phase ..⟩
  · have hbusy : s.busy = true := by simp [State.busy, hp]
    obtain ⟨_, hturn⟩ | ⟨_, rfl⟩ | ⟨ha, rfl⟩ | ⟨ha, rfl⟩ := agentStep_cases ht
    · exact absurd (hturn.phase_buf_of_busy hbusy).1 hmoved
    · exact absurd (congrArg State.phase (engineStep_of_waitCmp hp)) hmoved
    · refine .inl ⟨ha, Option.isSome_iff_ne_none.mpr fun hnone => hmoved ?_⟩
      rw [acknowledge_of_refused hp hnone]
    · exact .inr ⟨ha, rfl⟩

/-- Settles O24: the blocks the acknowledgement absorbs are those the stream counted for the outstanding request. -/
theorem acknowledgeKeepsTheStream : Obligations.AcknowledgeKeepsTheStream := by
  unfold Obligations.AcknowledgeKeepsTheStream
  intro s
  obtain ⟨r, back, bs, hp, hbs, e⟩ | e := acknowledge_cases s
  · obtain ⟨hout, _, habsorbed⟩ := State.resumeAfter_request { s with absorbed := s.absorbed ++ bs } r back
    have hissued : s.outstanding = some r := by rw [State.outstanding, hp]
    rw [e, State.dispatched, State.dispatched, hout, hissued]
    dsimp only
    rw [habsorbed, hbs, Option.getD_some]
  · rw [e]

/-- Settles O25: while BUSY the Host's writes to BUF are dropped, in WAIT_CMP the Engine takes no step, and the
Compressor never writes BUF. -/
theorem bufStableUnderRequest : Obligations.BufStableUnderRequest := by
  unfold Obligations.BufStableUnderRequest
  intro s addr n back hp
  have hbusy : s.busy = true := by simp [State.busy, hp]
  refine ⟨fun k => by rw [State.bufPort, hp], fun a t hreset ht => ?_⟩
  obtain ⟨_, hturn⟩ | ⟨_, rfl⟩ | ⟨_, rfl⟩ | ⟨ha, _⟩ := agentStep_cases ht
  · exact (hturn.phase_buf_of_busy hbusy).2
  · rw [engineStep_of_waitCmp hp]
  · rw [acknowledge_frame]
  · exact absurd ha hreset

end Sys2Proof.Machine
end

section
/-! PROOFS. The commands while BUSY, CLEAR, and STATUS (O11, O12, O36, O37). -/

namespace Sys2Proof.Machine

/-! ### The commands -/

/-- R115, R129: while BUSY a command is dropped with ERR_BUSY. -/
theorem exec_of_busy {s : State} (i : Instr) (hbusy : s.busy = true) : exec i s = .next (s.raise .busy) := by
  obtain ⟨_, e⟩ | ⟨_, hidle, _⟩ | ⟨_, hidle, _⟩ | ⟨_, hidle, _⟩ | ⟨_, hidle, _⟩ := exec_cases i s
  · exact e
  all_goals exact absurd (hbusy.symm.trans hidle) (by decide)

/-- Settles O12: the dropped command only raises ERR_BUSY. -/
theorem commandsWhileBusyAreDropped : Obligations.CommandsWhileBusyAreDropped := by
  unfold Obligations.CommandsWhileBusyAreDropped
  exact fun i _ hbusy => exec_of_busy i hbusy

/-- Settles O11: while idle CLEAR is `clearContext`, and while BUSY it is dropped as every command is. -/
theorem clearResetsTheContext : Obligations.ClearResetsTheContext := by
  unfold Obligations.ClearResetsTheContext
  refine fun s => ⟨fun hidle => ?_, exec_of_busy .clear⟩
  rw [exec, execClear, if_neg (by simp [hidle])]
  rfl

/-! ### STATUS -/

/-- R150: the record gains the bits that were set and are written as 1. -/
@[simp] theorem Errors.get_recordCleared (record e : Errors) (v : Word32) (f : Err) :
    (record.recordCleared e v).get f = (record.get f || (e.get f && v.getLsbD f.code)) := by
  cases f <;> rfl

/-- R115, R121: a write to STATUS takes its effect while idle and while BUSY. -/
theorem hostAccess_writeStatus (v : Word) (s : State) :
    hostAccess ⟨0x08, 32, some v⟩ s = .next ((s.respond .written).writeStatus (v.setWidth 32)) := by
  cases hb : s.busy with
  | false => exact hostAccess_writeIdle (g := .status) v rfl hb
  | true => exact hostAccess_writeBusy (g := .status) v rfl hb

/-- Settles O36: the cause codes lie below 32, so the write sees the bit of `v` at each. -/
theorem statusWriteClearsOnes : Obligations.StatusWriteClearsOnes := by
  unfold Obligations.StatusWriteClearsOnes
  refine fun v s => ⟨_, hostAccess_writeStatus v s, rfl, fun e => ?_⟩
  have hbit : (v.setWidth 32).getLsbD e.code = v.getLsbD e.code := by simp [e.code_lt]
  rw [← hbit]
  exact ⟨Errors.get_clearBits .., Errors.get_recordCleared ..⟩

/-- R28: a bit put below a word is bit 0, and the word's bits move up by one. -/
theorem getLsbD_append_ofBool {w : Nat} {x : BitVec w} {bits : List Bool} (h : ∀ i, x.getLsbD i = bits.getD i false)
    (b : Bool) (i : Nat) : (x ++ BitVec.ofBool b).getLsbD i = (b :: bits).getD i false := by
  rw [BitVec.getLsbD_append]
  cases i with
  | zero => simp
  | succ i => simpa using h i

/-- R28: the bits of STATUS, from bit 0 up: BUSY, the error bits, and 0 above. -/
theorem State.statusWord_getLsbD (s : State) (i : Nat) :
    s.statusWord.getLsbD i = [s.busy, s.errs.cmd, s.errs.busy, s.errs.range, s.errs.bus].getD i false :=
  have reserved : ∀ i, (0#27).getLsbD i = [].getD i false := fun i => by simp
  getLsbD_append_ofBool (getLsbD_append_ofBool (getLsbD_append_ofBool (getLsbD_append_ofBool
    (getLsbD_append_ofBool reserved s.errs.bus) s.errs.range) s.errs.busy) s.errs.cmd) s.busy i

/-- Settles O37: STATUS is no context register, so it reads as its word also while BUSY. -/
theorem statusReadShowsTheFlags : Obligations.StatusReadShowsTheFlags := by
  unfold Obligations.StatusReadShowsTheFlags
  intro s
  have hbit : ∀ i < 64, (s.statusWord.setWidth 64).getLsbD i
      = [s.busy, s.errs.cmd, s.errs.busy, s.errs.range, s.errs.bus].getD i false := fun i hi => by
    rw [BitVec.getLsbD_setWidth, s.statusWord_getLsbD, decide_eq_true hi, Bool.true_and]
  refine ⟨s.statusWord.setWidth 64, ?_, ?_, fun e => ?_, fun i hi => ?_⟩
  · rw [hostAccess_read s (g := .status) rfl, readTarget_of_not_context s rfl]
    rfl
  · rw [hbit 0 (by decide)]
    exact s.busy_eq_true_iff
  · rw [hbit e.code (e.code_lt.trans (by decide))]
    cases e <;> rfl
  · rw [BitVec.getLsbD_setWidth, s.statusWord_getLsbD, List.getD_eq_default _ _ hi, Bool.and_false]

end Sys2Proof.Machine
end

section
/-! PROOFS. Writes of the registers, accesses to the BUF window, and the Host while BUSY (O29, O30, O31, O32, O35,
O40). -/

namespace Sys2Proof.Machine

/-! ### 64-bit registers and BUFLEN -/

/-- R49: a register put together from 32 bits of each of two values. -/
theorem toNat_append_halves (hi lo : Word) (k : Nat) :
    (hi.extractLsb' k 32 ++ lo.extractLsb' 0 32).toNat = hi.toNat / 2 ^ k % 2 ^ 32 * 2 ^ 32 + lo.toNat % 2 ^ 32 := by
  rw [BitVec.toNat_append, ← Nat.shiftLeft_add_eq_or_of_lt (BitVec.isLt _), Nat.shiftLeft_eq]
  simp [BitVec.extractLsb'_toNat, Nat.shiftRight_eq_div_pow]

/-- R49: a write of the lower half keeps the upper one. -/
theorem Part.merge_lo (old v : Word) :
    Part.lo.merge old v = BitVec.ofNat 64 (old.toNat / 2 ^ 32 * 2 ^ 32 + v.toNat % 2 ^ 32) := by
  have hold := old.isLt
  apply BitVec.eq_of_toNat_eq
  rw [Part.merge, toNat_append_halves, BitVec.toNat_ofNat]
  omega

/-- R49: a write of the upper half keeps the lower one. -/
theorem Part.merge_hi (old v : Word) :
    Part.hi.merge old v = BitVec.ofNat 64 (v.toNat % 2 ^ 32 * 2 ^ 32 + old.toNat % 2 ^ 32) := by
  apply BitVec.eq_of_toNat_eq
  rw [Part.merge, toNat_append_halves, BitVec.toNat_ofNat]
  omega

/-- R49, R116: a 64-bit register written whole and by its halves while idle; `store` puts a value in the register. -/
theorem hostAccess_write_wide {s : State} {v old : Word} (off : BitVec 8) (g : Part → Target) (store : Word → State)
    (hidle : s.busy = false) (hwhole : target off 64 = some (g .whole)) (hlo : target off 32 = some (g .lo))
    (hhi : target (off + 4) 32 = some (g .hi))
    (hwrite : ∀ p, writeIdle (g p) v (s.respond .written) = .next (store (p.merge old v))) :
    hostAccess ⟨off, 64, some v⟩ s = .next (store v) ∧
      hostAccess ⟨off, 32, some v⟩ s
        = .next (store (BitVec.ofNat 64 (old.toNat / 2 ^ 32 * 2 ^ 32 + v.toNat % 2 ^ 32))) ∧
      hostAccess ⟨off + 4, 32, some v⟩ s
        = .next (store (BitVec.ofNat 64 (v.toNat % 2 ^ 32 * 2 ^ 32 + old.toNat % 2 ^ 32))) := by
  rw [hostAccess_writeIdle v hwhole hidle, hostAccess_writeIdle v hlo hidle, hostAccess_writeIdle v hhi hidle,
    hwrite, hwrite, hwrite, Part.merge_lo, Part.merge_hi]
  exact ⟨rfl, rfl, rfl⟩

/-- Settles O29: each of the four registers is written whole and by its halves. -/
theorem wideRegistersWriteByHalves : Obligations.WideRegistersWriteByHalves := by
  unfold Obligations.WideRegistersWriteByHalves
  intro s v hidle
  obtain ⟨hsrc, hsrcLo, hsrcHi⟩ := hostAccess_write_wide (v := v) 0x18 .srcAddr
    (fun x => { s with resp := some .written, srcAddr := x }) hidle rfl rfl rfl fun _ => rfl
  obtain ⟨hlen, hlenLo, hlenHi⟩ := hostAccess_write_wide (v := v) 0x20 .len
    (fun x => { s with resp := some .written, len := x }) hidle rfl rfl rfl fun _ => rfl
  obtain ⟨hlow, hlowLo, hlowHi⟩ := hostAccess_write_wide (v := v) 0x28 .cntLo
    (fun x => { s with resp := some .written, cntLo := x }) hidle rfl rfl rfl fun _ => rfl
  obtain ⟨hhigh, hhighLo, hhighHi⟩ := hostAccess_write_wide (v := v) 0x30 .cntHi
    (fun x => { s with resp := some .written, cntHi := x }) hidle rfl rfl rfl fun _ => rfl
  exact ⟨hsrc, hsrcLo, hsrcHi, hlen, hlenLo, hlenHi, hlow, hlowLo, hlowHi, hhigh, hhighLo, hhighHi⟩

/-- Settles O30: the low 7 bits of a value are its remainder by 128. -/
theorem buflenWriteKeepsSevenBits : Obligations.BuflenWriteKeepsSevenBits := by
  unfold Obligations.BuflenWriteKeepsSevenBits
  intro s v hidle
  have hlow : v.setWidth 7 = BitVec.ofNat 7 (v.toNat % 128) := by
    apply BitVec.eq_of_toNat_eq
    simp
  have hwrite := hostAccess_writeIdle (off := 0x38) (width := 32) (g := .bufLen) v rfl hidle
  rw [writeIdle, hlow] at hwrite
  refine ⟨hwrite, fun t ht => ?_⟩
  cases hwrite.symm.trans ht
  simp

/-! ### The BUF window -/

/-- R48: lane `j` of a value. -/
theorem lanesBytes_getD {n j : Nat} (v : Nat) (h : j < n) :
    (lanesBytes n v).getD j 0 = BitVec.ofNat 8 (v / 2 ^ (8 * j)) := by
  induction n generalizing j v with
  | zero => omega
  | succ n ih =>
    cases j with
    | zero => simp [lanesBytes]
    | succ j =>
      have hpow : 2 ^ (8 * (j + 1)) = 256 * 2 ^ (8 * j) := by rw [Nat.mul_succ, Nat.pow_add, Nat.mul_comm]
      rw [lanesBytes, List.getD_cons_succ, ih _ (by omega), Nat.div_div_eq_div_mul, hpow]

/-- R48: the value of bytes on little-endian lanes is the sum of the bytes, each at its lane; a missing byte is 0. -/
theorem lanesValue_eq_sum {bs : List Byte} {n : Nat} (h : bs.length ≤ n) :
    lanesValue bs = ∑ b ∈ Finset.range n, (bs.getD b 0).toNat * 2 ^ (8 * b) := by
  induction bs generalizing n with
  | nil => simp [lanesValue]
  | cons b bs ih =>
    obtain ⟨m, rfl⟩ : ∃ m, n = m + 1 := ⟨n - 1, by rw [List.length_cons] at h; omega⟩
    rw [lanesValue, ih (Nat.le_of_succ_le_succ h), Finset.sum_range_succ', Finset.mul_sum, Nat.add_comm]
    congr 1
    · refine Finset.sum_congr rfl fun j _ => ?_
      rw [List.getD_cons_succ, Nat.mul_succ, Nat.pow_add]
      ring
    · simp

/-- R48, R120: the value of a range of BUF is the sum of its bytes, each at its lane. -/
theorem lanesValue_bufBytes (buf : Vector Byte 128) (off n : Nat) :
    lanesValue (bufBytes buf off n)
      = ∑ b ∈ Finset.range n, (buf.toList.getD (off + b) 0).toNat * 2 ^ (8 * b) := by
  have hbyte : ∀ b < n, (bufBytes buf off n).getD b 0 = buf.toList.getD (off + b) 0 := fun b hb => by
    simp [bufBytes, List.getD_eq_getElem?_getD, hb]
  have hlen : (bufBytes buf off n).length ≤ n := List.length_take_le ..
  rw [lanesValue_eq_sum hlen]
  exact Finset.sum_congr rfl fun b hb => by rw [hbyte b (Finset.mem_range.mp hb)]

/-- Settles O31: while idle the bytes of BUF in the written range are the lanes of the value. -/
theorem windowWriteStoresLanes : Obligations.WindowWriteStoresLanes := by
  unfold Obligations.WindowWriteStoresLanes
  intro s off n v hoff hn halign
  have htarget := target_window hoff hn halign
  refine ⟨fun hidle => ⟨_, hostAccess_writeIdle v htarget hidle, rfl, fun k hk => ?_⟩,
    fun hbusy => ⟨_, hostAccess_writeBusy v htarget hbusy, rfl⟩⟩
  refine (bufWrite_getElem s.buf _ _ k hk).trans ?_
  rw [lanesBytes_length]
  split_ifs with hrange
  · exact lanesBytes_getD _ (by omega)
  · rfl

/-- Settles O32: while idle the window reads as BUF stands. -/
theorem windowReadAssemblesLanes : Obligations.WindowReadAssemblesLanes := by
  unfold Obligations.WindowReadAssemblesLanes
  intro s off n hoff hn halign hidle
  rw [hostAccess_read s (target_window hoff hn halign), readTarget_of_idle hidle, State.registerValue,
    lanesValue_bufBytes]
  rfl

/-! ### The Host while BUSY -/

/-- R20: a supported access at offset 0x08 is one to STATUS. -/
theorem eq_status_of_target {width : Nat} {g : Target} (h : target 0x08 width = some g) :
    g = .status ∧ width = 32 := by
  obtain ⟨hoff, _⟩ | ⟨hw, e⟩ | ⟨_, e⟩ := target_cases h
  · exact absurd hoff (by decide)
  · exact ⟨by simpa using e, hw⟩
  · simp at e

/-- Settles O35: STATUS is reached exactly at offset 0x08, and a write of any other target is dropped. -/
theorem writesWhileBusyAreDropped : Obligations.WritesWhileBusyAreDropped := by
  unfold Obligations.WritesWhileBusyAreDropped
  rintro ⟨off, width, _⟩ v s hbusy rfl hsupported
  obtain ⟨g, hg⟩ := Option.isSome_iff_exists.mp hsupported
  refine ⟨fun hoff => ?_, ?_⟩
  · obtain ⟨rfl, _⟩ | ⟨_, hdrop⟩ := writeBusy_cases g v (s.respond .written)
    · exact absurd (target_eq_status hg).1 hoff
    · rw [hostAccess_writeBusy v hg hbusy, hdrop]
      rfl
  · rintro rfl
    obtain ⟨rfl, rfl⟩ := eq_status_of_target hg
    exact hostAccess_writeStatus v s

/-- Settles O40: while BUSY a turn of the Host is a read, a write to STATUS, a raise of ERR_BUSY or a memory write. -/
theorem hostCannotDisturbTheCommand : Obligations.HostCannotDisturbTheCommand := by
  unfold Obligations.HostCannotDisturbTheCommand
  intro s t hbusy ht
  have hturn : HostTurn s t := hostStep_turn ht
  cases hturn with
  | quiet | status | raise | memory => exact ⟨rfl, rfl, rfl, rfl, rfl, rfl, rfl, rfl, rfl, rfl, rfl, rfl, rfl, rfl⟩
  | start _ hidle | context _ hidle | operand hidle => exact absurd (hbusy.symm.trans hidle) (by decide)

end Sys2Proof.Machine
end

section
/-! PROOFS. The errors: an event sets at most one bit, UPDATE past the top of memory, and unsupported accesses
(O43, O10, O27). -/

namespace Sys2Proof.Machine

/-! ### One event, one error -/

@[simp] theorem Errors.get_none (e : Err) : Errors.none.get e = false := by
  cases e <;> rfl

/-- R133, R137: a turn of any agent sets no error bit, or it raises one error and touches no other bit. -/
theorem agentStep_errs {a : Agent} {s t : State} (h : agentStep a s = .next t) :
    (∀ e, t.errs.get e = true → s.errs.get e = true) ∨ ∃ g, t.errs = s.errs.set g := by
  obtain ⟨_, ht⟩ | ⟨_, rfl⟩ | ⟨_, rfl⟩ | ⟨_, rfl⟩ := agentStep_cases h
  · cases ht with
    | @raise _ g => exact .inr ⟨g, rfl⟩
    | @status _ _ v =>
      refine .inl fun e he => ?_
      rw [State.writeStatus_errs, Errors.get_clearBits] at he
      exact Bool.and_elim_left he
    | quiet | start | context | operand | memory => exact .inl fun _ he => he
  · obtain ⟨he, _⟩ | ⟨x, _, habort⟩ := engineStep_errs_or_abort s
    · exact .inl fun e hset => he ▸ hset
    · exact .inr ⟨.bus, congrArg State.errs habort⟩
  · exact .inl fun e hset => acknowledge_errs s ▸ hset
  · exact .inl fun e hset => by simp at hset

/-- Settles O43: a bit that the turn took from 0 to 1 is the one bit the turn raised. -/
theorem oneEventSetsOneErrorBit : Obligations.OneEventSetsOneErrorBit := by
  unfold Obligations.OneEventSetsOneErrorBit
  intro a s t e f hstep he he' hf hf'
  obtain hnone | ⟨g, hset⟩ := agentStep_errs hstep
  · exact absurd (he.symm.trans (hnone e he')) (by decide)
  · have heg : e = g := by simpa [hset, he] using he'
    have hfg : f = g := by simpa [hset, hf] using hf'
    exact heg.trans hfg.symm

/-! ### Rejected events -/

/-- Settles O10: of the effects a command has at acceptance, an UPDATE out of range only raises ERR_RANGE. -/
theorem rangeErrorRejectsUpdate : Obligations.RangeErrorRejectsUpdate := by
  unfold Obligations.RangeErrorRejectsUpdate
  intro s hidle hlen hrange
  obtain ⟨hb, _⟩ | ⟨_, _, hzero, _⟩ | ⟨_, _, _, hin, _⟩ | ⟨_, _, _, _, e⟩ | ⟨hi, _⟩ := exec_cases .update s
  · exact absurd (hidle.symm.trans hb) (by decide)
  · exact absurd hzero hlen
  · exact absurd hrange (Nat.not_lt.mpr hin)
  · exact e
  · cases hi

/-- Settles O27: of the answers to a Host access only the bus error response is that of an access without a target. -/
theorem unsupportedAccessChangesNothing : Obligations.UnsupportedAccessChangesNothing := by
  unfold Obligations.UnsupportedAccessChangesNothing
  intro a s hnone
  obtain ⟨_, e⟩ | ⟨_, hsome, _⟩ | ⟨_, _, hsome, _⟩ | ⟨_, _, hsome, _⟩ := hostAccess_cases a s
  · exact e
  all_goals exact absurd (hnone.symm.trans hsome) (by simp)

end Sys2Proof.Machine
end

section
/-! PROOFS. The old values kept of a running UPDATE's input, and the machine right after reset (O47, O49, O52). -/

namespace Sys2Proof.Machine

/-! ### The input race -/

/-- The old values that a memory write keeps are what memory held. -/
theorem Memory.read_of_mem_cellsAt {m : Memory} {a n : Nat} {c : Host.Cell} (h : c ∈ Memory.cellsAt m a n) :
    Memory.read m c.1 = some c.2 := by
  induction n generalizing a with
  | zero => cases h
  | succ n ih =>
    rw [Memory.cellsAt] at h
    split at h
    next b hread =>
      obtain rfl | h := List.mem_cons.mp h
      · exact hread
      · exact ih h
    next => exact ih h

/-- R160: a value is kept for an address exactly when its cell is. -/
theorem mem_oldValues {raced : List Host.Cell} {a : Nat} {b : Byte} : b ∈ oldValues raced a ↔ (a, b) ∈ raced := by
  simp [oldValues]

/-- Settles O47: an old value that a read returns was kept by this write, which found it in memory, or by an earlier
one. -/
theorem racedReadIsOldOrNew : Obligations.RacedReadIsOldOrNew := by
  unfold Obligations.RacedReadIsOldOrNew
  intro s t a x bs hbusy hwrite
  have hraced : t.raced = s.raced ++ Memory.cellsAt s.mem a bs.length := by
    obtain hlt | hle := Nat.lt_or_ge addressLimit (a + bs.length)
    · rw [hostMemWrite_of_lt s hlt] at hwrite
      cases hwrite
    · rw [hostMemWrite_of_le s hle] at hwrite
      cases hwrite
      exact if_pos hbusy
  obtain ⟨old, hold, hread⟩ | hnew := t.busRead_cases x
  · rw [mem_oldValues, hraced] at hold
    obtain hearlier | hnow := List.mem_append.mp hold
    · exact .inr (.inr ⟨old, mem_oldValues.mpr hearlier, hread⟩)
    · exact .inr (.inl (hread.trans (Memory.read_of_mem_cellsAt hnow).symm))
  · exact .inl hnew

/-! ### Reset -/

/-- Settles O49: STATUS is the word of no error and not BUSY, and the other values stand in State.reset. -/
theorem resetValues : Obligations.ResetValues := by
  unfold Obligations.ResetValues
  have hstatus : State.reset.statusWord = 0 := by decide
  exact ⟨hstatus, rfl, rfl, rfl, rfl, rfl, rfl, rfl, rfl, rfl, rfl⟩

/-- Settles O52: State.reset is idle, with no memory, no requests, no blocks and no old values. -/
theorem resetMeetsInvariant : Obligations.ResetMeetsInvariant := by
  unfold Obligations.ResetMeetsInvariant
  exact .of_idle State.reset_memory_wf (List.forall_mem_nil _) (List.forall_mem_nil _) rfl rfl

end Sys2Proof.Machine
end

section
/-! PROOFS. How far a running UPDATE is from its end, and what a turn of each agent takes off that (O56). -/

namespace Sys2Proof.Machine

/-! ### What is readable -/

/-- A memory write makes no byte unreadable. -/
theorem Memory.isSome_read_writeBytes {m : Memory} {x : Nat} (a : Nat) (bs : List Byte)
    (h : (Memory.read m x).isSome = true) : (Memory.read (m.writeBytes a bs) x).isSome = true := by
  rw [Memory.read_writeBytes]
  split_ifs with hrange
  · rw [List.getElem?_eq_getElem (by omega)]
    rfl
  · exact h

/-- Every byte of which an old value is kept can be read. -/
def State.keptReadable (s : State) : Prop := ∀ c ∈ s.raced, (Memory.read s.mem c.1).isSome = true

/-- R160: whichever value a read of a raced byte picks, it succeeds exactly when memory has the byte. -/
theorem State.keptReadable.busRead_isSome {s : State} (h : s.keptReadable) (a : Nat) :
    (s.busRead a).isSome = (Memory.read s.mem a).isSome := by
  obtain ⟨old, hold, e⟩ | e := s.busRead_cases a
  · rw [e, h _ (mem_oldValues.mp hold)]
    rfl
  · rw [e]

/-- R45: a read of several bytes succeeds in every state in which the same bytes can be read. -/
theorem State.memRead_bytes_of_isSome {s t : State} {a n : Nat} {bs : List Byte}
    (h : ∀ x, (s.busRead x).isSome = (t.busRead x).isSome) (hread : s.memRead a n = .bytes bs) :
    ∃ cs, t.memRead a n = .bytes cs := by
  cases ht : t.memRead a n with
  | bytes cs => exact ⟨cs, rfl⟩
  | busError x =>
    obtain ⟨k, hk, rfl, hfail, _⟩ := State.memRead_busError ht
    obtain ⟨hlen, hbytes⟩ := State.memRead_bytes hread
    have hsome := h (a + k)
    rw [hfail, hbytes k (hlen ▸ hk)] at hsome
    cases hsome

/-- R101: so the Compressor can read a request in every such state. -/
theorem State.requestBlocks_isSome_of_isSome {s t : State} {r : Request}
    (h : ∀ x, (s.busRead x).isSome = (t.busRead x).isSome) (hread : (s.requestBlocks r).isSome = true) :
    (t.requestBlocks r).isSome = true := by
  unfold State.requestBlocks at hread ⊢
  cases hsrc : r.src with
  | buf => rfl
  | mem =>
    rw [hsrc] at hread
    dsimp only at hread ⊢
    cases hs : s.memRead r.addr.toNat (128 * r.n.toNat) with
    | busError x => rw [hs] at hread; cases hread
    | bytes bs =>
      obtain ⟨cs, ht⟩ := State.memRead_bytes_of_isSome h hs
      rw [ht]
      rfl

/-! ### How far the end is -/

/-- How many requests an UPDATE may still issue from a phase on: one for each full block that is left, and one for the
block in BUF that the drain may fill. The outstanding request has been issued. -/
def State.requestsFrom (s : State) : Phase → Nat
  | .idle | .stash => 0
  | .count => s.curLen.toNat / 128 + 1
  | .drain => s.curLen.toNat / 128 + if s.bufLen = 0 then 0 else 1
  | .bulk | .waitCmp _ .drain => s.curLen.toNat / 128
  | .waitCmp _ .bulk => s.curLen.toNat / 128 - 1

/-- How many requests a running UPDATE may still issue. -/
def State.requestsLeft (s : State) : Nat := s.requestsFrom s.phase

theorem State.requestsLeft_of_phase {s : State} {p : Phase} (hp : s.phase = p) : s.requestsLeft = s.requestsFrom p :=
  congrArg s.requestsFrom hp

/-- How many times the Engine still goes on to another phase; WAIT_CMP counts as the phase to resume. -/
def Phase.changesLeft : Phase → Nat
  | .idle => 0
  | .stash => 1
  | .bulk | .waitCmp _ .bulk => 2
  | .drain | .waitCmp _ .drain => 3
  | .count => 4

/-- Only IDLE is the last phase. -/
theorem Phase.changesLeft_pos {p : Phase} (h : p ≠ .idle) : 0 < p.changesLeft := by
  cases p with
  | idle => exact absurd rfl h
  | waitCmp r back => cases back <;> exact Nat.zero_lt_succ _
  | count | drain | bulk | stash => exact Nat.zero_lt_succ _

/-- How many turns of the Engine outside WAIT_CMP the end takes at most: each issues a request or goes on to another
phase (how much a turn does is the model's choice, log 14). -/
def State.turnsLeft (s : State) : Nat := s.requestsLeft + s.phase.changesLeft

/-- Only in IDLE no turn is left. -/
theorem State.idle_of_turnsLeft {s : State} (h : s.turnsLeft = 0) : s.phase = .idle := by
  by_contra hne
  have hchanges := Phase.changesLeft_pos hne
  unfold State.turnsLeft at h
  omega

/-- From one state to another at least `n` turns are taken off what is left, and no more requests are issued than could
be. -/
structure State.Nearer (n : Nat) (s t : State) : Prop where
  turns : t.turnsLeft + n ≤ s.turnsLeft
  requests : t.history.length + t.requestsLeft ≤ s.history.length + s.requestsLeft

namespace State.Nearer

variable {s t : State} {r : Request}

/-- A turn that goes on to another phase. -/
theorem of_change (hhistory : t.history = s.history) (hleft : t.requestsLeft ≤ s.requestsLeft)
    (hphase : t.phase.changesLeft + 1 ≤ s.phase.changesLeft) : Nearer 1 s t where
  turns := by unfold turnsLeft; omega
  requests := by rw [hhistory]; omega

/-- A turn that issues a request. -/
theorem of_request (hhistory : t.history = s.history ++ [r]) (hleft : t.requestsLeft + 1 ≤ s.requestsLeft)
    (hphase : t.phase.changesLeft = s.phase.changesLeft) : Nearer 1 s t where
  turns := by unfold turnsLeft; omega
  requests := by rw [hhistory, List.length_append, List.length_singleton]; omega

/-- A turn that ends the UPDATE. -/
theorem of_end (hbusy : s.busy = true) (hidle : t.phase = .idle) (hhistory : t.history = s.history) : Nearer 1 s t := by
  refine of_change hhistory ?_ ?_
  · rw [requestsLeft_of_phase hidle]
    exact Nat.zero_le _
  · rw [hidle]
    exact Phase.changesLeft_pos (s.busy_eq_true_iff.mp hbusy)

/-- A turn that leaves the phase, the cursor, BUFLEN and the history. -/
theorem of_eq (hphase : t.phase = s.phase) (hcurLen : t.curLen = s.curLen) (hbufLen : t.bufLen = s.bufLen)
    (hhistory : t.history = s.history) : Nearer 0 s t := by
  have hleft : t.requestsLeft = s.requestsLeft := by
    unfold requestsLeft requestsFrom
    rw [hphase, hcurLen, hbufLen]
  exact ⟨by rw [turnsLeft, turnsLeft, hleft, hphase]; exact le_rfl, by rw [hhistory, hleft]⟩

end State.Nearer

/-! ### The Engine -/

/-- What an UPDATE meets in each phase, after a step of the Engine. -/
theorem engineStep_stageOk {s : State} (h : stageOk s) : stageOk (engineStep s) := by
  obtain ⟨e, _⟩ | ⟨_, e⟩ | ⟨_, _, e⟩ | ⟨_, _, e⟩ | ⟨_, _, _, _, _, _, e⟩ | ⟨_, _, _, _, _, _, e⟩ | ⟨_, _, e⟩ |
    ⟨_, _, hge, _, _, _, e⟩ | ⟨_, hge, _, e⟩ | ⟨_, _, e⟩ | ⟨_, _, _, _, _, e⟩ := engineStep_cases s
  all_goals rw [e]
  · exact h
  · trivial
  · trivial
  · trivial
  · trivial
  · -- DRAIN that fills the block
    exact ⟨rfl, rfl⟩
  · trivial
  · -- BULK on the copy path
    exact ⟨hge, .inl rfl⟩
  · -- BULK on the direct path
    exact ⟨hge, .inr rfl⟩
  · trivial
  · trivial

/-- R160: a step of the Engine keeps the old values or forgets them all. -/
theorem engineStep_raced (s : State) : (engineStep s).raced = s.raced ∨ (engineStep s).raced = [] := by
  obtain ⟨e, _⟩ | ⟨_, e⟩ | ⟨_, _, e⟩ | ⟨_, _, e⟩ | ⟨_, _, _, _, _, _, e⟩ | ⟨_, _, _, _, _, _, e⟩ | ⟨_, _, e⟩ |
    ⟨_, _, _, _, _, _, e⟩ | ⟨_, _, _, e⟩ | ⟨_, _, e⟩ | ⟨_, _, _, _, _, e⟩ := engineStep_cases s
  all_goals rw [e]
  case inl | inr.inl => exact .inl rfl
  all_goals simp

/-- R98: outside IDLE and WAIT_CMP a step of the Engine issues a request, goes on to another phase or ends the
UPDATE. -/
theorem engineStep_nearer {s : State} (hbusy : s.busy = true) (hout : s.outstanding = none) :
    s.Nearer 1 (engineStep s) := by
  have hidle := s.busy_eq_true_iff.mp hbusy
  obtain ⟨_, hp | ⟨r, b, hp⟩⟩ | ⟨hp, e⟩ | ⟨hp, hz, e⟩ | ⟨_, _, e⟩ | ⟨_, _, _, _, _, _, e⟩ |
    ⟨bs, hp, hz, hge, _, _, e⟩ | ⟨hp, _, e⟩ | ⟨_, hp, hge, _, _, _, e⟩ | ⟨hp, hge, _, e⟩ | ⟨_, _, e⟩ |
    ⟨_, _, _, _, _, e⟩ := engineStep_cases s
  · exact absurd hp hidle
  · simp [State.outstanding, hp] at hout
  all_goals rw [e]
  · -- COUNT goes on to DRAIN
    refine .of_change rfl ?_ (by rw [hp]; exact le_rfl)
    rw [State.requestsLeft_of_phase hp]
    refine Nat.add_le_add_left (m := 1) ?_ (s.curLen.toNat / 128)
    split_ifs <;> decide
  · -- DRAIN of an empty buffer
    refine .of_change rfl ?_ (by rw [hp]; exact le_rfl)
    rw [State.requestsLeft_of_phase hp]
    exact Nat.le_add_right ..
  · -- a read failed
    exact .of_end hbusy rfl rfl
  · -- DRAIN of a chunk that ends inside the partial block
    exact .of_end hbusy rfl rfl
  · -- DRAIN that fills the block
    refine .of_request rfl ?_ (by rw [hp]; rfl)
    have hleft := State.advance_curLen_toNat (s := { s with buf := bufWrite s.buf s.bufLen.toNat bs, bufLen := 0 }) hge
    rw [State.requestsLeft_of_phase hp, State.requestsFrom, if_neg hz,
      State.requestsLeft_of_phase (State.issue_phase ..), State.requestsFrom, State.issue_curLen, hleft]
    exact Nat.add_le_add_right (Nat.div_le_div_right (Nat.sub_le ..)) 1
  · -- BULK goes on to STASH
    exact .of_change rfl (Nat.zero_le _) (by rw [hp]; exact le_rfl)
  · -- BULK on the copy path
    refine .of_request rfl ?_ (by rw [hp]; rfl)
    rw [State.requestsLeft_of_phase hp]
    exact (Nat.sub_add_cancel (Nat.div_pos hge (by decide))).le
  · -- BULK on the direct path
    refine .of_request rfl ?_ (by rw [hp]; rfl)
    rw [State.requestsLeft_of_phase hp]
    exact (Nat.sub_add_cancel (Nat.div_pos hge (by decide))).le
  · -- STASH with nothing left
    exact .of_end hbusy rfl rfl
  · -- STASH of a remainder
    exact .of_end hbusy rfl rfl

/-! ### The Compressor -/

/-- R93, R94: a request issued in BULK asks for a full block or more, and for no more than is left. -/
theorem stageOk_bulk_request {s : State} {r : Request} (h : stageOk s) (hp : s.phase = .waitCmp r .bulk) :
    1 ≤ r.n.toNat ∧ 128 * r.n.toNat ≤ s.curLen.toNat := by
  rw [stageOk, hp] at h
  obtain ⟨hge, rfl | rfl⟩ := h
  · exact ⟨le_rfl, hge⟩
  · rw [bulkRequest_n_toNat]
    omega

/-- R99: an acknowledgement takes nothing off what is left: the request has been counted, and WAIT_CMP counts as the
phase it resumes. -/
theorem acknowledge_nearer {s : State} (h : stageOk s) : s.Nearer 0 (acknowledge s) := by
  obtain ⟨r, back, bs, hp, _, e⟩ | e := acknowledge_cases s
  case inr => rw [e]; exact .of_eq rfl rfl rfl rfl
  have hhistory : (acknowledge s).history = s.history := by rw [acknowledge_frame]
  have hchanges : (acknowledge s).phase.changesLeft = s.phase.changesLeft := by
    rw [e, hp]
    cases back <;> rfl
  have hleft : (acknowledge s).requestsLeft ≤ s.requestsLeft := by
    rw [e, State.requestsLeft_of_phase hp, State.requestsLeft_of_phase (State.resumeAfter_phase ..)]
    cases back with
    | drain =>
      rw [stageOk, hp] at h
      exact (congrArg (s.curLen.toNat / 128 + ·) (if_pos h.2)).le
    | bulk =>
      obtain ⟨hn, hle⟩ := stageOk_bulk_request h hp
      have hcur : (State.advance { s with absorbed := s.absorbed ++ bs } (128 * r.n.toNat)).curLen.toNat
          = s.curLen.toNat - 128 * r.n.toNat := State.advance_curLen_toNat hle
      dsimp only [State.requestsFrom, State.resumeAfter]
      omega
  exact ⟨by unfold State.turnsLeft; omega, by rw [hhistory]; omega⟩

/-- What an UPDATE meets in each phase, after an acknowledgement. -/
theorem acknowledge_stageOk {s : State} (h : stageOk s) : stageOk (acknowledge s) := by
  obtain ⟨r, back, bs, _, _, e⟩ | e := acknowledge_cases s
  · rw [e]
    cases back <;> trivial
  · rw [e]
    exact h

/-- R35: a request is outstanding only in WAIT_CMP. -/
theorem State.waitCmp_of_outstanding {s : State} {r : Request} (h : s.outstanding = some r) :
    ∃ back, s.phase = .waitCmp r back := by
  unfold State.outstanding at h
  split at h
  next r' back hp => exact ⟨back, Option.some.inj h ▸ hp⟩
  next => cases h

/-- R99: when the Compressor can read what it is asked for, its turn leaves no request outstanding. -/
theorem acknowledge_outstanding {s : State}
    (hreads : ∀ r, s.outstanding = some r → (s.requestBlocks r).isSome = true) :
    (acknowledge s).outstanding = none := by
  cases hout : s.outstanding with
  | some r =>
    obtain ⟨back, hp⟩ := State.waitCmp_of_outstanding hout
    obtain ⟨bs, hbs⟩ := Option.isSome_iff_exists.mp (hreads r hout)
    rw [acknowledge_of_requestBlocks hp hbs]
    exact (State.resumeAfter_request ..).1
  | none =>
    obtain ⟨r, back, _, hp, _⟩ | e := acknowledge_cases s
    · simp [State.outstanding, hp] at hout
    · rw [e]
      exact hout

/-! ### The Host -/

/-- A POLL is done or stays first. -/
theorem hostPoll_hostProg (off : BitVec 8) (hi lo value : Nat) (rest : List HostOp) (s : State) :
    (hostPoll off hi lo value rest s).hostProg = s.hostProg ∨ (hostPoll off hi lo value rest s).hostProg = rest := by
  unfold hostPoll
  split
  · exact .inl rfl
  · dsimp only
    split
    · exact .inr rfl
    · exact .inl rfl

/-- R115: while BUSY a register access completes and leaves the Host's program. -/
theorem hostAccess_of_busy (a : HostAccess) {s : State} (hbusy : s.busy = true) :
    ∃ t, hostAccess a s = .next t ∧ t.hostProg = s.hostProg := by
  obtain ⟨_, e⟩ | ⟨_, _, _, e⟩ | ⟨g, v, _, _, _, e⟩ | ⟨_, _, _, _, hidle, _⟩ := hostAccess_cases a s
  · exact ⟨_, e, rfl⟩
  · exact ⟨_, e, rfl⟩
  · refine ⟨_, e, ?_⟩
    obtain ⟨_, e'⟩ | ⟨_, e'⟩ := writeBusy_cases g v (s.respond .written)
    all_goals
      rw [e']
      rfl
  · exact absurd (hbusy.symm.trans hidle) (by decide)

/-- R42, R57: while BUSY a turn of the Host completes, unless it writes past the address space, and adds no
statement. -/
theorem hostStep_of_busy {s : State} (hbusy : s.busy = true) (hspace : ∀ op ∈ s.hostProg, op.inSpace = true) :
    ∃ t, hostStep s = .next t ∧ t.hostProg ⊆ s.hostProg := by
  have hrest {op : HostOp} {rest : List HostOp} (hop : s.hostProg = op :: rest) : rest ⊆ s.hostProg :=
    hop ▸ List.subset_cons_self op rest
  obtain ⟨_, e⟩ | ⟨op, rest, a, hop, _, e⟩ | ⟨_, _, _, rest, hop, _, e⟩ | ⟨off, hi, lo, value, rest, hop, e⟩ |
    ⟨x, bs, rest, hop, e⟩ := hostStep_cases s
  · exact ⟨s, e, List.Subset.refl _⟩
  · obtain ⟨t, ht, hprog⟩ := hostAccess_of_busy a (s := { s with hostProg := rest }) hbusy
    exact ⟨t, e.trans ht, hprog ▸ hrest hop⟩
  · exact ⟨_, e, hrest hop⟩
  · refine ⟨_, e, ?_⟩
    obtain hprog | hprog := hostPoll_hostProg off hi lo value rest s
    · rw [hprog]
      exact List.Subset.refl _
    · rw [hprog]
      exact hrest hop
  · have hle : x + bs.length ≤ addressLimit := of_decide_eq_true (hspace (.memWrite x bs) (hop ▸ List.mem_cons_self))
    exact ⟨_, e.trans (hostMemWrite_of_le _ hle), hrest hop⟩

/-- R129: while BUSY a turn of the Host takes nothing off what is left, and leaves what the phase asks. -/
theorem HostTurn.nearer_and_stageOk {s t : State} (h : HostTurn s t) (hbusy : s.busy = true) (hstage : stageOk s) :
    s.Nearer 0 t ∧ stageOk t := by
  cases h with
  | quiet | status | raise | operand | memory => exact ⟨.of_eq rfl rfl rfl rfl, hstage⟩
  | start _ hidle | context _ hidle => exact absurd (hbusy.symm.trans hidle) (by decide)

/-- R160: the Host's memory write keeps as old values what memory held, and those bytes can still be read. -/
theorem HostTurn.keptReadable {s t : State} (h : HostTurn s t) (hkept : s.keptReadable) : t.keptReadable := by
  cases h with
  | quiet | status | raise | operand | start | context => exact hkept
  | @memory x bs =>
    intro c hc
    refine Memory.isSome_read_writeBytes x bs ?_
    dsimp only at hc
    split at hc
    · obtain hc | hc := List.mem_append.mp hc
      · exact hkept c hc
      · rw [Memory.read_of_mem_cellsAt hc]
        rfl
    · exact hkept c hc

end Sys2Proof.Machine
end

section
/-! PROOFS. An UPDATE ends in every schedule with enough rounds (O56). -/

namespace Sys2Proof.Machine

/-! ### Rounds -/

/-- A turn of the Engine begins a round. -/
theorem rounds_engine (begun : Bool) (rest : List Agent) : rounds begun (.engine :: rest) = rounds true rest := by
  cases begun <;> rfl

/-- A turn of the Compressor ends the round that has begun. -/
theorem rounds_compressor (begun : Bool) (rest : List Agent) :
    rounds begun (.compressor :: rest) = rounds false rest + begun.toNat := by
  cases begun <;> rfl

/-- A turn of the Host lies in the round or before it. -/
theorem rounds_host (begun : Bool) (rest : List Agent) : rounds begun (.host :: rest) = rounds begun rest := by
  cases begun <;> rfl

/-! ### One turn -/

/-- An UPDATE that the schedule will bring to its end: the phase's condition, the old values that are kept, a Host that
writes no address past the address space, no request outstanding before the round has begun, and enough rounds. A round
that has begun has had its turn of the Engine. -/
structure State.Underway (begun : Bool) (agents : List Agent) (s : State) : Prop where
  stage : stageOk s
  kept : s.keptReadable
  inSpace : ∀ op ∈ s.hostProg, op.inSpace = true
  acknowledged : begun = false → s.outstanding = none
  enough : s.turnsLeft + begun.toNat ≤ rounds begun agents

namespace State.Underway

variable {begun : Bool} {agents : List Agent} {s : State}

/-- R57: the schedule and the step counter do not matter. -/
theorem tick (h : s.Underway begun agents) (rest : List Agent) : (s.tick rest).Underway begun agents :=
  ⟨h.stage, h.kept, h.inSpace, h.acknowledged, h.enough⟩

/-- R98, R99: a turn of the Engine begins a round, and takes a turn off unless a request is outstanding. -/
theorem engine (h : s.Underway begun (.engine :: agents)) (hbusy : s.busy = true) :
    (engineStep s).Underway true agents ∧ s.Nearer 0 (engineStep s) := by
  have henough := h.enough
  rw [rounds_engine] at henough
  have hkept : (engineStep s).keptReadable := fun c hc => by
    rw [engineStep_mem]
    obtain e | e := engineStep_raced s
    · exact h.kept c (e ▸ hc)
    · rw [e] at hc
      cases hc
  have hspace : ∀ op ∈ (engineStep s).hostProg, op.inSpace = true := engineStep_hostProg s ▸ h.inSpace
  cases hout : s.outstanding with
  | none =>
    obtain ⟨hturns, hrequests⟩ := engineStep_nearer hbusy hout
    exact ⟨⟨engineStep_stageOk h.stage, hkept, hspace, nofun, by rw [Bool.toNat_true]; omega⟩, by omega, hrequests⟩
  | some r =>
    -- the round had begun before
    obtain ⟨back, hp⟩ := State.waitCmp_of_outstanding hout
    rw [engineStep_of_waitCmp hp]
    cases begun with
    | false => cases hout.symm.trans (h.acknowledged rfl)
    | true => exact ⟨⟨h.stage, h.kept, h.inSpace, nofun, henough⟩, .of_eq rfl rfl rfl rfl⟩

/-- R99: a turn of the Compressor that can read what it is asked for ends the round with no request outstanding. -/
theorem compressor (h : s.Underway begun (.compressor :: agents))
    (hreads : ∀ r, s.outstanding = some r → (s.requestBlocks r).isSome = true) :
    (acknowledge s).Underway false agents ∧ s.Nearer 0 (acknowledge s) := by
  have hnearer := acknowledge_nearer h.stage
  have henough := h.enough
  rw [rounds_compressor] at henough
  have hkept : (acknowledge s).keptReadable := by
    rw [acknowledge_frame]
    exact h.kept
  have hspace : ∀ op ∈ (acknowledge s).hostProg, op.inSpace = true := acknowledge_hostProg s ▸ h.inSpace
  have hturns := hnearer.turns
  exact ⟨⟨acknowledge_stageOk h.stage, hkept, hspace, fun _ => acknowledge_outstanding hreads,
    by rw [Bool.toNat_false]; omega⟩, hnearer⟩

/-- R129: a turn of the Host completes and leaves what the schedule will do. -/
theorem host (h : s.Underway begun (.host :: agents)) (hbusy : s.busy = true) :
    ∃ t, hostStep s = .next t ∧ t.Underway begun agents ∧ s.Nearer 0 t := by
  obtain ⟨t, ht, hprog⟩ := hostStep_of_busy hbusy h.inSpace
  have hturn := hostStep_turn ht
  obtain ⟨hnearer, hstage⟩ := hturn.nearer_and_stageOk hbusy h.stage
  have henough := h.enough
  rw [rounds_host] at henough
  have hout : t.outstanding = s.outstanding := by
    rw [State.outstanding, (hturn.phase_buf_of_busy hbusy).1, State.outstanding]
  exact ⟨t, ht, ⟨hstage, hturn.keptReadable h.kept, fun op hop => h.inSpace op (hprog hop),
    fun hb => hout.trans (h.acknowledged hb), (Nat.add_le_add_right hnearer.turns _).trans henough⟩, hnearer⟩

/-- R57: a turn of any agent but Reset completes, and the schedule will still bring the UPDATE to its end. -/
theorem turn {a : Agent} (h : s.Underway begun (a :: agents)) (hbusy : s.busy = true) (hreset : a ≠ .reset)
    (hreads : ∀ r, s.outstanding = some r → (s.requestBlocks r).isSome = true) :
    ∃ t begun', agentStep a s = .next t ∧ t.Underway begun' agents ∧ s.Nearer 0 t := by
  cases a with
  | host =>
    obtain ⟨t, ht, hway, hnearer⟩ := h.host hbusy
    exact ⟨t, begun, ht, hway, hnearer⟩
  | engine => exact ⟨_, true, rfl, h.engine hbusy⟩
  | compressor => exact ⟨_, false, rfl, h.compressor hreads⟩
  | reset => exact absurd rfl hreset

/-! ### The run -/

/-- R57: the first turn of the schedule, when the Compressor can read the request outstanding before it. -/
theorem step {a : Agent} (h : s.Underway begun (a :: agents)) (hsched : s.sched = a :: agents) (hbusy : s.busy = true)
    (hreset : a ≠ .reset) (hreads : ∀ r, s.outstanding = some r → (s.requestBlocks r).isSome = true) :
    ∃ t begun', Machine.step s = .next t ∧ t.sched = agents ∧ t.Underway begun' agents ∧ s.Nearer 0 t := by
  have hreads' : ∀ r, (s.tick agents).outstanding = some r → ((s.tick agents).requestBlocks r).isSome = true :=
    fun r hr => State.requestBlocks_isSome_of_isSome
      (fun x => (h.kept.busRead_isSome x).trans ((h.tick agents).kept.busRead_isSome x).symm) (hreads r hr)
  obtain ⟨t, begun', ht, hway, hnearer⟩ := (h.tick agents).turn hbusy hreset hreads'
  refine ⟨t, begun', ?_, agentStep_sched ht, hway, hnearer.turns, hnearer.requests⟩
  rw [step_eq_agentStep, hsched]
  exact ht

/-- R166: the run reaches IDLE within the schedule, with at most the requests that were left. -/
theorem finishes (h : s.Underway begun agents) (hsched : s.sched = agents) (hreset : .reset ∉ agents)
    (hreads : ∀ k u r, k < agents.length → Host.Core.run core k s = .next u → u.outstanding = some r →
      (u.requestBlocks r).isSome = true) :
    ∃ k t, k ≤ agents.length ∧ Host.Core.run core k s = .next t ∧ t.phase = .idle ∧
      t.history.length ≤ s.history.length + s.requestsLeft := by
  induction agents generalizing begun s with
  | nil =>
    have hturns : s.turnsLeft = 0 := (Nat.add_eq_zero_iff.mp (Nat.le_zero.mp h.enough)).1
    exact ⟨0, s, le_rfl, rfl, State.idle_of_turnsLeft hturns, Nat.le_add_right ..⟩
  | cons a agents ih =>
    cases hbusy : s.busy with
    | false => exact ⟨0, s, Nat.zero_le _, rfl, s.busy_eq_false_iff.mp hbusy, Nat.le_add_right ..⟩
    | true =>
      obtain ⟨u, begun', hstep, hsched', hway, hnearer⟩ :=
        h.step hsched hbusy (List.ne_of_not_mem_cons hreset).symm fun r => hreads 0 s r (Nat.zero_lt_succ _) rfl
      obtain ⟨k, t, hk, hrun, hidle, hrequests⟩ := ih hway hsched' (List.not_mem_of_not_mem_cons hreset)
        fun k v r hk hv => hreads (k + 1) v r (Nat.succ_lt_succ hk) (run_succ.mpr ⟨u, hstep, hv⟩)
      exact ⟨k + 1, t, Nat.succ_le_succ hk, run_succ.mpr ⟨u, hstep, hrun⟩, hidle, hrequests.trans hnearer.requests⟩

end State.Underway

/-! ### Acceptance -/

/-- R84 to R87: the Host's UPDATE word written while idle starts the Engine on LEN bytes, or leaves it in IDLE. -/
theorem step_update {s : State} {agents : List Agent} (hidle : s.phase = .idle)
    (hnext : s.hostProg.head? = some (wrCmd .update)) (hsched : s.sched = .host :: agents) :
    ∃ u, step s = .next u ∧ u.history = s.history ∧ (u.phase = .idle ∨
      s.len ≠ 0 ∧ u.phase = .count ∧ u.curLen = s.len ∧ u.raced = s.raced ∧ u.hostProg = s.hostProg.tail ∧
        u.sched = agents) := by
  have hbusy : s.busy = false := s.busy_eq_false_iff.mpr hidle
  have hprog : s.hostProg = wr32 0x10 (encode .update) :: s.hostProg.tail := List.eq_cons_of_mem_head? hnext
  have hstep := stepRunsTheDecodedCommand.2 s agents _ (encode .update) .update hsched hprog hbusy (by decide)
  obtain ⟨hb, _⟩ | ⟨_, _, _, e⟩ | ⟨_, _, hne, _, e⟩ | ⟨_, _, _, _, e⟩ | ⟨hi, _⟩ :=
    exec_cases .update { s with
      sched := agents, hostProg := s.hostProg.tail, draws := s.draws + 1, resp := some .written }
  · exact absurd (hbusy.symm.trans hb) (by decide)
  · exact ⟨_, hstep.trans e, rfl, .inl hidle⟩
  · exact ⟨_, hstep.trans e, rfl, .inr ⟨hne, rfl, rfl, rfl, rfl, rfl⟩⟩
  · exact ⟨_, hstep.trans e, rfl, .inl hidle⟩
  · cases hi

/-- Settles O56: an accepted UPDATE has LEN div 128 + 1 requests and 4 changes of phase left, and each round takes one
of them off (the number is that of the model's turns, log 14). -/
theorem updateFinishes : Obligations.UpdateFinishes := by
  unfold Obligations.UpdateFinishes
  intro s agents hidle hraced hnext hspace hsched hreset hrounds hreads
  obtain ⟨u, hstep, hhistory, hu | ⟨hne, hcount, hcurLen, hraced', hprog, hsched'⟩⟩ := step_update hidle hnext hsched
  · exact ⟨0, u, Nat.zero_le _, run_succ.mpr ⟨u, hstep, rfl⟩, hu, by rw [hhistory]; omega⟩
  · have hleft : u.requestsLeft = s.len.toNat / 128 + 1 := by
      rw [State.requestsLeft_of_phase hcount, State.requestsFrom, hcurLen]
    have hway : u.Underway false agents := {
      stage := by rw [stageOk, hcount]; exact hcurLen ▸ hne
      kept := fun c hc => by rw [hraced', hraced] at hc; cases hc
      inSpace := fun op hop => hspace op (List.mem_of_mem_tail (hprog ▸ hop))
      acknowledged := fun _ => by rw [State.outstanding, hcount]
      enough := by rw [State.turnsLeft, hleft, hcount]; exact hrounds }
    obtain ⟨k, t, hk, hrun, ht, hrequests⟩ := hway.finishes hsched' hreset fun k v r hk hv =>
      hreads (k + 1) v r hk (run_succ.mpr ⟨u, hstep, hv⟩)
    exact ⟨k, t, hk, run_succ.mpr ⟨u, hstep, hrun⟩, ht, by rw [hhistory, hleft] at hrequests; omega⟩

end Sys2Proof.Machine
end

section
/-! PROOFS. The decoder and the encoder (O2). -/

namespace Sys2Proof.Machine

/-- Settles O2: a word with RSV = 0 is fixed by its opcode, and the decoder reads exactly those two fields. -/
theorem decodeInvertsEncode : Obligations.DecodeInvertsEncode := by
  unfold Obligations.DecodeInvertsEncode
  exact decode_eq_command_iff

end Sys2Proof.Machine
end
